-- ==== Sys2Proof/Word.lean ====
section
/-! DEFINITION. The bytes and addresses the machine computes with (spec 00_scope.md R12, R13, R15; 20_memory.md R71, R72). -/
namespace Sys2Proof

/-- A byte: 8 bits, bit 0 the least significant (R12, R13). -/
abbrev Byte := BitVec 8

/-- A 48-bit station address: six bytes in frame order, never treated as a number (R15, R72). -/
structure Addr where
  b0 : Byte
  b1 : Byte
  b2 : Byte
  b3 : Byte
  b4 : Byte
  b5 : Byte
deriving DecidableEq, Repr, Inhabited

/-- The six bytes of an address in frame order (R13). -/
def Addr.toList (a : Addr) : List Byte := [a.b0, a.b1, a.b2, a.b3, a.b4, a.b5]

/-- FF:FF:FF:FF:FF:FF (R34, R42, R207). -/
def Addr.broadcast : Addr := ⟨0xFF, 0xFF, 0xFF, 0xFF, 0xFF, 0xFF⟩

/-- 00:00:00:00:00:00, the reset value of CFG.BSSID (R52). -/
def Addr.zero : Addr := ⟨0, 0, 0, 0, 0, 0⟩

/-- The first four bytes of the IV region, the contents of CTX.IV (R24, R203). -/
structure Iv4 where
  b0 : Byte
  b1 : Byte
  b2 : Byte
  b3 : Byte
deriving DecidableEq, Repr, Inhabited

end Sys2Proof
end

