-- ==== Sys2Proof/Config.lean ====
section
/-! DEFINITION. What an implementation fixes: the constants of R8 and R9, the external cipher functions of R10, and the
free answer of the fragment reassembler (R11, R357). -/
namespace Sys2Proof

/-- MIN_WRAPPED (R8, R9). -/
abbrev Config.minWrapped : Nat := 32
/-- MAX_WRAPPED (R8, R9). -/
abbrev Config.maxWrapped : Nat := 2364
/-- MIN_LOGICAL (R8, R9). -/
abbrev Config.minLogical : Nat := 14
/-- MAX_LOGICAL (R8, R9). -/
abbrev Config.maxLogical : Nat := 2346
/-- MAX_KEY_LEN in bytes (R8, decision D50). -/
abbrev Config.maxKeyLen : Nat := 32
/-- CTR_WIDTH, the width of every statistics counter (R8, decision D15). -/
abbrev Config.ctrWidth : Nat := 32

/-- `rc4(key, data)`: a total function of its arguments that keeps the length of `data`; nothing else is assumed (R10, log 1). -/
opaque Config.rc4 (key : List Byte) (n : Nat) (data : Vector Byte n) : Vector Byte n

/-- `crc32(data)`: a total function; nothing else is assumed (R10, log 1). -/
opaque Config.crc32 (data : List Byte) : BitVec 32

/-- `tkip_mix(tk, ta, tsc_lo, tsc_hi)`: the per-packet RC4 key; nothing else is assumed (R10, log 1). -/
opaque Config.tkipMix (tk : List Byte) (ta : Addr) (tscLo : BitVec 16) (tscHi : BitVec 32) : List Byte

/-- `ccmp_open(tk, pn_lo, pn_hi, hdr, body)`: `n` plaintext bytes from `n + 8` bytes, and the authentication result (R10, log 1). -/
opaque Config.ccmpOpen (tk : List Byte) (pnLo : BitVec 16) (pnHi : BitVec 32) (hdr : List Byte) (n : Nat)
    (body : Vector Byte (n + 8)) : Vector Byte n × Bool

/-- `michael_ok(tk, frame)`: a total predicate; nothing else is assumed (R10, R226, log 1). -/
opaque Config.michaelOk (tk : List Byte) (frame : List Byte) : Bool

/-- The reassembler's answer to one `submit` (R11, R268): `none` is `Incomplete`, `some f` is `Complete(f)`. The argument
counts the submissions that no listed answer of the environment served; nothing is assumed of the value (R357, log 2). -/
opaque Config.reassemblerAnswer (n : Nat) : Option (List Byte)

end Sys2Proof
end

