-- ==== Sys2Proof/Syntax.lean ====
section
/-! DEFINITION. The operations of the block: one constructor of `Instr` per row of spec/opcode_table.json (R119, R121), in
the table's order, with the operands the rules give them. -/
namespace Sys2Proof

/-- The metadata that travels with a frame (R29). -/
structure Meta where
  rssi : Byte
  sq : Byte
  rate : Byte
  crcOk : Bool
  addrOk : Bool
  newIcvOk : Bool
  tstamp : BitVec 64
deriving DecidableEq, Repr, Inhabited

/-- The reasons for which a pass ends in `Dropped` (R370, R371). -/
inductive Reason where
  /-- 1 MalformedFrame(LENGTH) -/
  | malformedLength
  /-- 2 MalformedFrame(RESERVED_TYPE) -/
  | malformedReservedType
  /-- 3 MalformedFrame(TRUNCATED) -/
  | malformedTruncated
  /-- 4 MalformedFrame(MCAST_FRAGMENT) -/
  | malformedMcastFragment
  /-- 5 CipherMismatch -/
  | cipherMismatch
  /-- 6 IntegrityFailure(WEP) -/
  | integrityWep
  /-- 7 IntegrityFailure(TKIP) -/
  | integrityTkip
  /-- 8 IntegrityFailure(TKIP_MIC) -/
  | integrityTkipMic
  /-- 9 IntegrityFailure(CCMP) -/
  | integrityCcmp
  /-- 10 ReplayDetected(TKIP) -/
  | replayTkip
  /-- 11 ReplayDetected(CCMP) -/
  | replayCcmp
  /-- 12 ReassemblyIncomplete -/
  | reassemblyIncomplete
  /-- 13 ClassViolation(CLASS2) -/
  | class2
  /-- 14 ClassViolation(CLASS3) -/
  | class3
  /-- 15 NoKey(NO_KEY) -/
  | noKey
  /-- 16 NoKey(SUITE_NONE) -/
  | noKeySuiteNone
  /-- 17 NoKey(IV_FORMAT) -/
  | noKeyIvFormat
  /-- 18 QueueOverflow -/
  | queueOverflow
deriving DecidableEq, Repr

/-- The operations of the block, one per row of the opcode table (R119). The rows of a bit format carry no operand: their
operands are `CTX` registers and the frame. The host operations carry the operands of their rules; those a rule range-checks
are natural numbers, so that an out-of-range operand can be presented and refused. -/
inductive Instr where
  /-- LENCHK (R141) -/
  | lenchk
  /-- CLASSIFY (R143) -/
  | classify
  /-- CLS.MGMT (R143) -/
  | clsMgmt
  /-- CLS.CTRL (R143) -/
  | clsCtrl
  /-- CLS.DATA (R143) -/
  | clsData
  /-- CLS.RSVD (R150) -/
  | clsRsvd
  /-- CLS.PSPOLL (R147) -/
  | clsPspoll
  /-- HDR.A4 (R148) -/
  | hdrA4
  /-- HDR.A3 (R148) -/
  | hdrA3
  /-- APCTL (R162) -/
  | apctl
  /-- APCTL.DEAUTH (R166) -/
  | apctlDeauth
  /-- APCTL.DISASSOC (R167) -/
  | apctlDisassoc
  /-- APCTL.PSPOLL (R169) -/
  | apctlPspoll
  /-- APCTL.PSWAKE (R171) -/
  | apctlPswake
  /-- APCTL.PSSET (R172) -/
  | apctlPsset
  /-- APCTL.PSNOP (R173) -/
  | apctlPsnop
  /-- ROUTE (R180) -/
  | route
  /-- ROUTE.NOSTA (R181) -/
  | routeNosta
  /-- ROUTE.MCQ (R183) -/
  | routeMcq
  /-- ROUTE.FLOOD (R183) -/
  | routeFlood
  /-- ROUTE.UCQ (R182) -/
  | routeUcq
  /-- ROUTE.UCRELAY (R182) -/
  | routeUcrelay
  /-- ROUTE.LOCAL (R185) -/
  | routeLocal
  /-- PSQ.PUSH(entry, FRM), the entry given by its index (R186) -/
  | psqPush (entry : Nat)
  /-- IVPARSE (R203) -/
  | ivparse
  /-- KEYSEL (R207) -/
  | keysel
  /-- KEYSEL.PW (R207 a) -/
  | keyselPw
  /-- KEYSEL.GRP (R207 b) -/
  | keyselGrp
  /-- KEYSEL.BCAST (R207 c) -/
  | keyselBcast
  /-- CIPHERCHK (R212) -/
  | cipherchk
  /-- DEC.NONE (R217) -/
  | decNone
  /-- DEC.WEP (R218) -/
  | decWep
  /-- DEC.TKIP (R222) -/
  | decTkip
  /-- DEC.CCMP (R228) -/
  | decCcmp
  /-- STRIP (R232) -/
  | strip
  /-- RPLCHK (R252) -/
  | rplchk
  /-- DEFRAG (R266) -/
  | defrag
  /-- HDRXLT (R296) -/
  | hdrxlt
  /-- XLT.IBSS (R282) -/
  | xltIbss
  /-- XLT.FROMAP (R282) -/
  | xltFromap
  /-- XLT.TOAP (R282) -/
  | xltToap
  /-- XLT.WDS (R282) -/
  | xltWds
  /-- XLT.LEN (R292) -/
  | xltLen
  /-- XLT.PASS (R290) -/
  | xltPass
  /-- XLT.RAW (R294) -/
  | xltRaw
  /-- MGMT_DISPATCH (R316) -/
  | mgmtDispatch
  /-- DELIVER (R324) -/
  | deliver
  /-- DROP of a raised reason (R326, R385) -/
  | drop (reason : Reason)
  /-- H.FRAME_IN (R310, R341) -/
  | hFrameIn (bytes : List Byte) (wlen : Nat) (info : Meta)
  /-- H.CFG_WRITE (R342) -/
  | hCfgWrite (reg value : Nat)
  /-- H.KEY_SET (R344) -/
  | hKeySet (scope : Nat) (addr : Addr) (kidx suite : Nat) (material : List Byte) (tscLo tscHi : Nat)
  /-- H.KEY_DEL (R345) -/
  | hKeyDel (scope : Nat) (addr : Addr) (kidx : Nat)
  /-- H.STA_SET (R347) -/
  | hStaSet (i : Nat) (addr : Addr) (assoc : Nat)
  /-- H.STA_DEL (R348) -/
  | hStaDel (i : Nat)
  /-- H.PS_POP (R350) -/
  | hPsPop (i : Nat)
  /-- H.STA0_PS_CLEAR (R351) -/
  | hSta0PsClear
  /-- H.STAT_READ (R352) -/
  | hStatRead (name : Nat)
  /-- H.RESET (R354) -/
  | hReset
deriving DecidableEq, Repr

end Sys2Proof
end

