-- ==== Sys2Proof/WellFormed.lean ====
section
/-! DEFINITION. Which instructions a transaction of the host port can carry: every natural-number operand fits the field the
port gives it (R122; the field widths are log 3). What a rule refuses (a key index above 3, a reserved AKM) is well formed
here: the operation itself refuses it. -/
namespace Sys2Proof

/-- The operands fit the fields of the encoding (log 3). -/
def Instr.wellFormed (i : Instr) : Bool :=
  match i with
  | .lenchk | .classify | .clsMgmt | .clsCtrl | .clsData | .clsRsvd | .clsPspoll | .hdrA4 | .hdrA3 => true
  | .apctl | .apctlDeauth | .apctlDisassoc | .apctlPspoll | .apctlPswake | .apctlPsset | .apctlPsnop => true
  | .route | .routeNosta | .routeMcq | .routeFlood | .routeUcq | .routeUcrelay | .routeLocal => true
  | .psqPush _ => true
  | .ivparse | .keysel | .keyselPw | .keyselGrp | .keyselBcast | .cipherchk => true
  | .decNone | .decWep | .decTkip | .decCcmp | .strip | .rplchk | .defrag => true
  | .hdrxlt | .xltIbss | .xltFromap | .xltToap | .xltWds | .xltLen | .xltPass | .xltRaw => true
  | .mgmtDispatch | .deliver => true
  | .drop _ => true
  | .hFrameIn _ wlen _ => decide (wlen < 2 ^ 32)
  | .hCfgWrite reg value => decide (reg < 2 ^ 8) && decide (value < 2 ^ 64)
  | .hKeySet scope _ kidx suite _ tscLo tscHi =>
      decide (scope < 2 ^ 8) && decide (kidx < 2 ^ 8) && decide (suite < 2 ^ 8) && decide (tscLo < 2 ^ 32)
        && decide (tscHi < 2 ^ 64)
  | .hKeyDel scope _ kidx => decide (scope < 2 ^ 8) && decide (kidx < 2 ^ 8)
  | .hStaSet i _ assoc => decide (i < 2 ^ 32) && decide (assoc < 2 ^ 8)
  | .hStaDel i => decide (i < 2 ^ 32)
  | .hPsPop i => decide (i < 2 ^ 32)
  | .hSta0PsClear => true
  | .hStatRead name => decide (name < 2 ^ 8)
  | .hReset => true

end Sys2Proof
end

