-- ==== Sys2Proof/Decode.lean ====
section
/-! DEFINITION. The operation map of spec 30_encoding.md and spec/opcode_table.json: the byte-order helpers, the row that a
word of each format selects (R121: within a group the first matching row in file order wins), the decoder and the encoder. -/
namespace Sys2Proof

/-! ### Byte order (R13, R72) -/

/-- Byte `i` of a byte string (R13); every use stands behind a length check, so the 0 past the end is never the value used. -/
def byteAt (b : List Byte) (i : Nat) : Byte := b.getD i 0

/-- `le16(b) = b[0] | b[1] << 8` (R13). -/
def le16 (b : List Byte) : BitVec 16 := byteAt b 1 ++ byteAt b 0

/-- `le32(b) = b[0] | b[1]<<8 | b[2]<<16 | b[3]<<24` (R13). -/
def le32 (b : List Byte) : BitVec 32 := byteAt b 3 ++ byteAt b 2 ++ byteAt b 1 ++ byteAt b 0

/-- `be16(b) = b[0] << 8 | b[1]` (R13). -/
def be16 (b : List Byte) : BitVec 16 := byteAt b 0 ++ byteAt b 1

/-- The 64-bit SNAP8 word of eight bytes, byte `s[0]` most significant (R121). -/
def be64 (b : List Byte) : BitVec 64 :=
  byteAt b 0 ++ byteAt b 1 ++ byteAt b 2 ++ byteAt b 3 ++ byteAt b 4 ++ byteAt b 5 ++ byteAt b 6 ++ byteAt b 7

/-- `bytes_be16(v)`: the two bytes `v[15:8], v[7:0]` (R13). -/
def bytesBe16 (v : BitVec 16) : List Byte := [v.extractLsb' 8 8, v.extractLsb' 0 8]

/-- The six-byte address held by a byte string (R15, R80). -/
def addrOf (b : List Byte) : Addr := ⟨byteAt b 0, byteAt b 1, byteAt b 2, byteAt b 3, byteAt b 4, byteAt b 5⟩

/-- The first four bytes of a byte string, as CTX.IV holds them (R24). -/
def iv4Of (b : List Byte) : Iv4 := ⟨byteAt b 0, byteAt b 1, byteAt b 2, byteAt b 3⟩

/-- `n` bytes of a number, least significant first: the host port's number fields (log 3). -/
def leBytes (n v : Nat) : List Byte :=
  match n with
  | 0 => []
  | k + 1 => BitVec.ofNat 8 v :: leBytes k (v / 256)

/-- The number whose bytes, least significant first, are given (log 3). -/
def ofLeBytes (b : List Byte) : Nat :=
  match b with
  | [] => 0
  | c :: r => c.toNat + 256 * ofLeBytes r

/-! ### The rows of each format -/

/-- The `type` group of FC16. -/
inductive TypeRow where
  | mgmt | ctrl | data | rsvd
deriving DecidableEq, Repr

/-- The `hdrlen` group of FC16. -/
inductive HdrRow where
  | a4 | a3
deriving DecidableEq, Repr

/-- The `xlt-addr` group of FC16. -/
inductive XltAddrRow where
  | ibss | fromap | toap | wds
deriving DecidableEq, Repr

/-- The `sta3` group; `passOn` is the word 0b110 that no row matches and that goes on to PSW3, `reserved` the word 0b111
that cannot occur (R117). -/
inductive Sta3Row where
  | deauth | disassoc | passOn | reserved
deriving DecidableEq, Repr

/-- The `psw3` group. -/
inductive Psw3Row where
  | pspoll | pswake | psset | psnop
deriving DecidableEq, Repr

/-- The `ksel1` group. -/
inductive Ksel1Row where
  | pw | grp
deriving DecidableEq, Repr

/-- The `suite2` group (R216). -/
inductive SuiteRow where
  | noSuite | wep | tkip | ccmp
deriving DecidableEq, Repr

/-- The `xlt-snap` group. -/
inductive SnapRow where
  | len | pass | raw
deriving DecidableEq, Repr

/-- The `route` group (R180). -/
inductive RteRow where
  | nosta | mcq | flood | ucq | ucrelay | toStack
deriving DecidableEq, Repr

/-- The SEQ rows: they have no bits, the sequencer names them (R121). -/
inductive SeqRow where
  | lenchk | classify | apctl | route | psqPush (entry : Nat) | ivparse | keysel | keyselBcast | cipherchk | strip | rplchk
  | defrag | hdrxlt | mgmtDispatch | deliver | drop (reason : Reason)
deriving DecidableEq, Repr

/-- A word matches a row when `w & mask = match` (R121). -/
def rowHit {n : Nat} (w mask pat : BitVec n) : Bool := w &&& mask == pat

/-- Rows CLS.MGMT, CLS.CTRL, CLS.DATA, CLS.RSVD (R103, R143, R150). -/
def typeRow (fc : BitVec 16) : TypeRow :=
  if rowHit fc 0x000C 0x0000 then .mgmt
  else if rowHit fc 0x000C 0x0004 then .ctrl
  else if rowHit fc 0x000C 0x0008 then .data
  else .rsvd

/-- Row CLS.PSPOLL, an independent flag (R103, R147). -/
def pspollHit (fc : BitVec 16) : Bool := rowHit fc 0x00FC 0x00A4

/-- Rows HDR.A4, HDR.A3 (R110, R148). -/
def hdrRow (fc : BitVec 16) : HdrRow := if rowHit fc 0x0300 0x0300 then .a4 else .a3

/-- Rows XLT.IBSS, XLT.FROMAP, XLT.TOAP, XLT.WDS (R111, R282). -/
def xltAddrRow (fc : BitVec 16) : XltAddrRow :=
  if rowHit fc 0x0300 0x0000 then .ibss
  else if rowHit fc 0x0300 0x0200 then .fromap
  else if rowHit fc 0x0300 0x0100 then .toap
  else .wds

/-- Rows APCTL.DEAUTH, APCTL.DISASSOC of the word `{found, STATE[1:0]}` (R162, R166, R167). -/
def sta3Row (w : BitVec 3) : Sta3Row :=
  if rowHit w 0x4 0x0 || rowHit w 0x7 0x4 then .deauth
  else if rowHit w 0x7 0x5 then .disassoc
  else if rowHit w 0x7 0x6 then .passOn
  else .reserved

/-- Rows APCTL.PSPOLL, APCTL.PSWAKE, APCTL.PSSET, APCTL.PSNOP of the word `{IS_PSPOLL, PM, PS}` (R162, R169 to R173). -/
def psw3Row (w : BitVec 3) : Psw3Row :=
  if rowHit w 0x4 0x4 then .pspoll
  else if rowHit w 0x7 0x1 then .pswake
  else if rowHit w 0x6 0x2 then .psset
  else .psnop

/-- Rows KEYSEL.PW, KEYSEL.GRP of the one-bit condition (a) (R207). -/
def ksel1Row (w : BitVec 1) : Ksel1Row := if rowHit w 0x1 0x1 then .pw else .grp

/-- Rows DEC.NONE, DEC.WEP, DEC.TKIP, DEC.CCMP of the suite tag (R216). -/
def suiteRow (w : BitVec 2) : SuiteRow :=
  if rowHit w 0x3 0x0 then .noSuite
  else if rowHit w 0x3 0x1 then .wep
  else if rowHit w 0x3 0x2 then .tkip
  else .ccmp

/-- Rows XLT.LEN, XLT.PASS, XLT.RAW of the SNAP8 word; `stt` is the parameter STT_TYPE2 in bits [15:0] of its pattern
(R112, R121, R288). -/
def snapRow (stt : BitVec 16) (s : BitVec 64) : SnapRow :=
  if rowHit s 0xFFFFFFFFFFFF0000 0xAAAA030000F80000
      || rowHit s 0xFFFFFFFFFFFFFFFF 0xAAAA030000008137
      || rowHit s 0xFFFFFFFFFFFFFFFF ((0xAAAA03000000 : BitVec 48) ++ stt) then .len
  else if rowHit s 0xFFFFFFFFFFFF0000 0xAAAA030000000000 then .pass
  else .raw

/-- The route decision (R180): the number of associated stations, the group bit of CTX.DA, `any_ps`, and the `PS` flag of the
associated entry of CTX.DA when there is one. -/
def rteRow (assocCount : Nat) (group anyPs : Bool) (dest : Option Bool) : RteRow :=
  if assocCount = 0 then .nosta
  else if group then (if anyPs then .mcq else .flood)
  else
    match dest with
    | some true => .ucq
    | some false => .ucrelay
    | none => .toStack

/-! ### Coded instructions -/

/-- The groups of FC16 rows (R121). -/
inductive Fc16Group where
  | type | pspoll | hdrlen | xltAddr
deriving DecidableEq, Repr

/-- What the block decodes an operation from (R121): a word of one of the formats, or, for SEQ and RTE, the row itself. A
HOSTCMD is a transaction of the host port: the code byte of R122 and the operand bytes of log 3. -/
inductive Code where
  | seq (r : SeqRow)
  | fc16 (g : Fc16Group) (fc : BitVec 16)
  | sta3 (w : BitVec 3)
  | psw3 (w : BitVec 3)
  | ksel1 (w : BitVec 1)
  | suite2 (w : BitVec 2)
  | snap8 (stt : BitVec 16) (s : BitVec 64)
  | rte (r : RteRow)
  | hostcmd (bytes : List Byte)
deriving DecidableEq, Repr

/-- Why a coded instruction is rejected. -/
inductive DecodeError where
  /-- an FC16 word whose type and subtype are not PS-Poll selects no row of the `pspoll` group (R121) -/
  | notPspoll
  /-- the word 0b110 of STA3 selects no row: the operation goes on to PSW3 (R162) -/
  | passesOn
  /-- the word 0b111 of STA3 holds the reserved station state (R117) -/
  | reservedState
  /-- a transaction with no code byte, of which the spec does not speak (log 3) -/
  | emptyTransaction
  /-- a command code outside 0x01..0x0A (R122) -/
  | unknownHostCode
  /-- operand bytes missing, in excess, or a reserved metadata bit set (log 3) -/
  | badOperands
deriving DecidableEq, Repr

/-- The metadata flags byte of the port: bit 0 CRC_OK, bit 1 ADDR_OK, bit 2 NEWICV_OK (log 3). -/
def metaFlags (m : Meta) : Byte :=
  BitVec.ofNat 8 (m.crcOk.toNat + 2 * m.addrOk.toNat + 4 * m.newIcvOk.toNat)

/-- A transaction of the host port (R122 for the code, log 3 for the operand layout). -/
def decodeHost (bytes : List Byte) : Except DecodeError Instr :=
  match bytes with
  | [] => .error .emptyTransaction
  | c :: ops =>
    match c.toNat with
    | 0x01 =>
      match ops with
      | w0 :: w1 :: w2 :: w3 :: rs :: q :: rt :: fl :: t0 :: t1 :: t2 :: t3 :: t4 :: t5 :: t6 :: t7 :: frame =>
        if fl.toNat < 8 then
          .ok (.hFrameIn frame (ofLeBytes [w0, w1, w2, w3])
            ⟨rs, q, rt, fl.getLsbD 0, fl.getLsbD 1, fl.getLsbD 2,
              BitVec.ofNat 64 (ofLeBytes [t0, t1, t2, t3, t4, t5, t6, t7])⟩)
        else .error .badOperands
      | _ => .error .badOperands
    | 0x02 =>
      match ops with
      | [r, v0, v1, v2, v3, v4, v5, v6, v7] =>
        .ok (.hCfgWrite r.toNat (ofLeBytes [v0, v1, v2, v3, v4, v5, v6, v7]))
      | _ => .error .badOperands
    | 0x03 =>
      match ops with
      | sc :: a0 :: a1 :: a2 :: a3 :: a4 :: a5 :: ki :: su :: l0 :: l1 :: l2 :: l3 :: h0 :: h1 :: h2 :: h3 :: h4 :: h5 ::
          h6 :: h7 :: material =>
        .ok (.hKeySet sc.toNat ⟨a0, a1, a2, a3, a4, a5⟩ ki.toNat su.toNat material (ofLeBytes [l0, l1, l2, l3])
          (ofLeBytes [h0, h1, h2, h3, h4, h5, h6, h7]))
      | _ => .error .badOperands
    | 0x04 =>
      match ops with
      | [sc, a0, a1, a2, a3, a4, a5, ki] => .ok (.hKeyDel sc.toNat ⟨a0, a1, a2, a3, a4, a5⟩ ki.toNat)
      | _ => .error .badOperands
    | 0x05 =>
      match ops with
      | [i0, i1, i2, i3, a0, a1, a2, a3, a4, a5, st] =>
        .ok (.hStaSet (ofLeBytes [i0, i1, i2, i3]) ⟨a0, a1, a2, a3, a4, a5⟩ st.toNat)
      | _ => .error .badOperands
    | 0x06 =>
      match ops with
      | [i0, i1, i2, i3] => .ok (.hStaDel (ofLeBytes [i0, i1, i2, i3]))
      | _ => .error .badOperands
    | 0x07 =>
      match ops with
      | [i0, i1, i2, i3] => .ok (.hPsPop (ofLeBytes [i0, i1, i2, i3]))
      | _ => .error .badOperands
    | 0x08 =>
      match ops with
      | [] => .ok .hSta0PsClear
      | _ => .error .badOperands
    | 0x09 =>
      match ops with
      | [nm] => .ok (.hStatRead nm.toNat)
      | _ => .error .badOperands
    | 0x0A =>
      match ops with
      | [] => .ok .hReset
      | _ => .error .badOperands
    | _ => .error .unknownHostCode

/-- The SEQ rows. -/
def decodeSeq (r : SeqRow) : Instr :=
  match r with
  | .lenchk => .lenchk
  | .classify => .classify
  | .apctl => .apctl
  | .route => .route
  | .psqPush i => .psqPush i
  | .ivparse => .ivparse
  | .keysel => .keysel
  | .keyselBcast => .keyselBcast
  | .cipherchk => .cipherchk
  | .strip => .strip
  | .rplchk => .rplchk
  | .defrag => .defrag
  | .hdrxlt => .hdrxlt
  | .mgmtDispatch => .mgmtDispatch
  | .deliver => .deliver
  | .drop r => .drop r

/-- The FC16 rows, by group (R121). -/
def decodeFc16 (g : Fc16Group) (fc : BitVec 16) : Except DecodeError Instr :=
  match g with
  | .type =>
    match typeRow fc with
    | .mgmt => .ok .clsMgmt
    | .ctrl => .ok .clsCtrl
    | .data => .ok .clsData
    | .rsvd => .ok .clsRsvd
  | .pspoll => if pspollHit fc then .ok .clsPspoll else .error .notPspoll
  | .hdrlen =>
    match hdrRow fc with
    | .a4 => .ok .hdrA4
    | .a3 => .ok .hdrA3
  | .xltAddr =>
    match xltAddrRow fc with
    | .ibss => .ok .xltIbss
    | .fromap => .ok .xltFromap
    | .toap => .ok .xltToap
    | .wds => .ok .xltWds

/-- The decoder (R115, R121): total, rejecting by name. -/
def decode (c : Code) : Except DecodeError Instr :=
  match c with
  | .seq r => .ok (decodeSeq r)
  | .fc16 g fc => decodeFc16 g fc
  | .sta3 w =>
    match sta3Row w with
    | .deauth => .ok .apctlDeauth
    | .disassoc => .ok .apctlDisassoc
    | .passOn => .error .passesOn
    | .reserved => .error .reservedState
  | .psw3 w =>
    match psw3Row w with
    | .pspoll => .ok .apctlPspoll
    | .pswake => .ok .apctlPswake
    | .psset => .ok .apctlPsset
    | .psnop => .ok .apctlPsnop
  | .ksel1 w =>
    match ksel1Row w with
    | .pw => .ok .keyselPw
    | .grp => .ok .keyselGrp
  | .suite2 w =>
    match suiteRow w with
    | .noSuite => .ok .decNone
    | .wep => .ok .decWep
    | .tkip => .ok .decTkip
    | .ccmp => .ok .decCcmp
  | .snap8 stt s =>
    match snapRow stt s with
    | .len => .ok .xltLen
    | .pass => .ok .xltPass
    | .raw => .ok .xltRaw
  | .rte r =>
    match r with
    | .nosta => .ok .routeNosta
    | .mcq => .ok .routeMcq
    | .flood => .ok .routeFlood
    | .ucq => .ok .routeUcq
    | .ucrelay => .ok .routeUcrelay
    | .toStack => .ok .routeLocal
  | .hostcmd bytes => decodeHost bytes

/-- The default of the parameter STT_TYPE2 (R8, decision D31). -/
def sttType2Default : BitVec 16 := 0x80F3

/-- The encoder: the word of the instruction's row as spec/opcode_table.json writes it (its `match`), the row itself where it
has no bits, and the transaction bytes of a host operation. -/
def encode (i : Instr) : Code :=
  match i with
  | .lenchk => .seq .lenchk
  | .classify => .seq .classify
  | .clsMgmt => .fc16 .type 0x0000
  | .clsCtrl => .fc16 .type 0x0004
  | .clsData => .fc16 .type 0x0008
  | .clsRsvd => .fc16 .type 0x000C
  | .clsPspoll => .fc16 .pspoll 0x00A4
  | .hdrA4 => .fc16 .hdrlen 0x0300
  | .hdrA3 => .fc16 .hdrlen 0x0000
  | .apctl => .seq .apctl
  | .apctlDeauth => .sta3 0x0
  | .apctlDisassoc => .sta3 0x5
  | .apctlPspoll => .psw3 0x4
  | .apctlPswake => .psw3 0x1
  | .apctlPsset => .psw3 0x2
  | .apctlPsnop => .psw3 0x0
  | .route => .seq .route
  | .routeNosta => .rte .nosta
  | .routeMcq => .rte .mcq
  | .routeFlood => .rte .flood
  | .routeUcq => .rte .ucq
  | .routeUcrelay => .rte .ucrelay
  | .routeLocal => .rte .toStack
  | .psqPush i => .seq (.psqPush i)
  | .ivparse => .seq .ivparse
  | .keysel => .seq .keysel
  | .keyselPw => .ksel1 0x1
  | .keyselGrp => .ksel1 0x0
  | .keyselBcast => .seq .keyselBcast
  | .cipherchk => .seq .cipherchk
  | .decNone => .suite2 0x0
  | .decWep => .suite2 0x1
  | .decTkip => .suite2 0x2
  | .decCcmp => .suite2 0x3
  | .strip => .seq .strip
  | .rplchk => .seq .rplchk
  | .defrag => .seq .defrag
  | .hdrxlt => .seq .hdrxlt
  | .xltIbss => .fc16 .xltAddr 0x0000
  | .xltFromap => .fc16 .xltAddr 0x0200
  | .xltToap => .fc16 .xltAddr 0x0100
  | .xltWds => .fc16 .xltAddr 0x0300
  | .xltLen => .snap8 sttType2Default 0xAAAA030000F80000
  | .xltPass => .snap8 sttType2Default 0xAAAA030000000000
  | .xltRaw => .snap8 sttType2Default 0x0000000000000000
  | .mgmtDispatch => .seq .mgmtDispatch
  | .deliver => .seq .deliver
  | .drop r => .seq (.drop r)
  | .hFrameIn bytes wlen m =>
      .hostcmd (0x01 :: (leBytes 4 wlen ++ [m.rssi, m.sq, m.rate, metaFlags m] ++ leBytes 8 m.tstamp.toNat ++ bytes))
  | .hCfgWrite reg value => .hostcmd (0x02 :: BitVec.ofNat 8 reg :: leBytes 8 value)
  | .hKeySet scope addr kidx suite material tscLo tscHi =>
      .hostcmd (0x03 :: BitVec.ofNat 8 scope :: (addr.toList ++ [BitVec.ofNat 8 kidx, BitVec.ofNat 8 suite]
        ++ leBytes 4 tscLo ++ leBytes 8 tscHi ++ material))
  | .hKeyDel scope addr kidx => .hostcmd (0x04 :: BitVec.ofNat 8 scope :: (addr.toList ++ [BitVec.ofNat 8 kidx]))
  | .hStaSet i addr assoc => .hostcmd (0x05 :: (leBytes 4 i ++ addr.toList ++ [BitVec.ofNat 8 assoc]))
  | .hStaDel i => .hostcmd (0x06 :: leBytes 4 i)
  | .hPsPop i => .hostcmd (0x07 :: leBytes 4 i)
  | .hSta0PsClear => .hostcmd [0x08]
  | .hStatRead name => .hostcmd [0x09, BitVec.ofNat 8 name]
  | .hReset => .hostcmd [0x0A]

/-! ### The host's question about one table word -/

/-- How many operand bytes a command has when its byte strings are empty (log 3). -/
def hostOperandBytes (code : Nat) : Nat :=
  match code with
  | 0x01 => 16
  | 0x02 => 9
  | 0x03 => 21
  | 0x04 => 8
  | 0x05 => 11
  | 0x06 => 4
  | 0x07 => 4
  | 0x09 => 1
  | _ => 0

/-- The group whose row is named for a bare frame-control word (log 4): one FC16 word selects a row in every group, and this
names the most specific group that the word's non-zero fields single out. -/
def fc16GroupOf (fc : BitVec 16) : Fc16Group :=
  if pspollHit fc then .pspoll
  else if typeRow fc ≠ .mgmt then .type
  else if hdrRow fc = .a4 then .hdrlen
  else if xltAddrRow fc ≠ .ibss then .xltAddr
  else .type

/-- The coded instruction that a bare table word stands for: one byte is a host command with zero operand bytes, two bytes
are a frame-control word, eight bytes a SNAP8 word (bits numbered as the table numbers them). The words of STA3, PSW3, KSEL1
and SUITE2 are assembled inside the block and the SEQ and RTE rows have no bits, so no bare word names them (log 4). -/
def tableCode (nbits w : Nat) : Option Code :=
  match nbits with
  | 8 => some (.hostcmd (BitVec.ofNat 8 w :: List.replicate (hostOperandBytes (w % 256)) 0))
  | 16 => some (.fc16 (fc16GroupOf (BitVec.ofNat 16 w)) (BitVec.ofNat 16 w))
  | 64 => some (.snap8 sttType2Default (BitVec.ofNat 64 w))
  | _ => none

/-- The instruction the decoder reads from the bits of a table word. -/
def decodeTableWord (nbits w : Nat) : Option Instr :=
  match tableCode nbits w with
  | none => none
  | some c =>
    match decode c with
    | .ok i => some i
    | .error _ => none

end Sys2Proof
end

