-- ==== Sys2Proof/Machine/State.lean ====
section
/-! DEFINITION. The architectural state of the block (spec 10_state.md R21), its parameters and its environment, the reset
state (R52, R410), and the reasons for which the model stops. State is plain data. -/
namespace Sys2Proof.Machine

/-! ### Named codes -/

/-- The stage register's values (R22). -/
inductive Stage where
  | idle | raw | lengthValidated | classified | apFiltered | decrypted | defragmented | replayChecked | headerTranslated
  | delivered | dropped
deriving DecidableEq, Repr

/-- The classifier's tag (R24, R103). -/
inductive FrameType where
  | mgmt | ctrl | data
deriving DecidableEq, Repr

/-- The cipher-suite tag (R35). -/
inductive Suite where
  | noSuite | wep | tkip | ccmp
deriving DecidableEq, Repr

/-- CFG.AKM without its reserved values, which no write can store (R30, R342). -/
inductive Akm where
  | noAkm | wpa | wpaPsk | wpa2 | wpa2Psk
deriving DecidableEq, Repr

/-- A station's STATE without its reserved value (R41). -/
inductive Assoc where
  | unauthenticated | authenticated | associated
deriving DecidableEq, Repr

/-- A key record's SCOPE (R34). -/
inductive Scope where
  | group | pairwise
deriving DecidableEq, Repr

/-- The route tags (R322). -/
inductive Route where
  | toStack | relayFlood | relayUcast (i : Nat) | queuedMcast | queuedSta (i : Nat)
deriving DecidableEq, Repr

/-! ### Frames, records, registers -/

/-- A frame with its metadata as it leaves the block or waits in a queue: its live bytes and nothing else (R28, R74, log 5). -/
structure Packet where
  bytes : List Byte
  info : Meta
deriving DecidableEq, Repr

/-- The current frame (R27): FRM.BUF, FRM.HEAD, FRM.LEN, FRM.META. -/
structure Frame where
  buf : List Byte
  head : Nat
  len : Nat
  info : Meta
deriving DecidableEq, Repr

/-- The per-frame context (R24); a register that holds no value is `none` (R25). `toStack` is the value that ROUTE leaves for
DELIVER (R181, R324) and `dec` the sequencer's note that DECRYPT completed in this pass (R312, R313). -/
structure Ctx where
  wlen : Option (BitVec 12)
  fc : Option (BitVec 16)
  tag : Option FrameType
  isWep : Option Bool
  isFrag : Option Bool
  isMcast : Option Bool
  isPspoll : Option Bool
  hdrlen : Option (BitVec 5)
  ta : Option Addr
  sta : Option (Option Nat)
  iv : Option Iv4
  kidx : Option (BitVec 2)
  extIv : Option Bool
  usePw : Option Bool
  key : Option Nat
  suite : Option Suite
  tscLo : Option (BitVec 16)
  tscHi : Option (BitVec 32)
  decryptOk : Option Bool
  da : Option Addr
  sa : Option Addr
  route : Option Route
  reason : Option (BitVec 5)
  toStack : Option Bool
  dec : Bool
deriving DecidableEq, Repr

/-- The names of the context registers, for the fault that a read of an absent one is (R25). -/
inductive CtxReg where
  | wlen | fc | tag | isWep | isFrag | isMcast | isPspoll | hdrlen | ta | sta | iv | kidx | extIv | usePw | key | suite
  | tscLo | tscHi | decryptOk | da | sa | route | toStack
deriving DecidableEq, Repr

/-- The configuration registers (R30). -/
structure Cfg where
  apMode : Bool
  akm : Akm
  pairwiseSuite : Suite
  groupSuite : Suite
  bssid : Addr
deriving DecidableEq, Repr

/-- The statistics counters (R32), each CTR_WIDTH bits. -/
structure Stats where
  malformed : BitVec Config.ctrWidth
  class2 : BitVec Config.ctrWidth
  class3 : BitVec Config.ctrWidth
  wepUndecryptable : BitVec Config.ctrWidth
  cipherMismatch : BitVec Config.ctrWidth
  wepDecryptErr : BitVec Config.ctrWidth
  tkipDecryptErr : BitVec Config.ctrWidth
  tkipMicErr : BitVec Config.ctrWidth
  ccmpDecryptErr : BitVec Config.ctrWidth
  tkipReplay : BitVec Config.ctrWidth
  ccmpReplay : BitVec Config.ctrWidth
  psqOverflow : BitVec Config.ctrWidth
  overrun : BitVec Config.ctrWidth
  duplicate : BitVec Config.ctrWidth
deriving DecidableEq, Repr

/-- The counters' names, in the order of R32. -/
inductive Counter where
  | malformed | class2 | class3 | wepUndecryptable | cipherMismatch | wepDecryptErr | tkipDecryptErr | tkipMicErr
  | ccmpDecryptErr | tkipReplay | ccmpReplay | psqOverflow | overrun | duplicate
deriving DecidableEq, Repr

/-- A key record (R34). KLEN is the length of `material` (R344). -/
structure KeyRec where
  valid : Bool
  scope : Scope
  addr : Addr
  kidx : BitVec 2
  suite : Suite
  material : List Byte
  tscLo : BitVec 16
  tscHi : BitVec 32
deriving DecidableEq, Repr

/-- A station-table entry with its power-save queue, oldest frame first (R40, R44). -/
structure StaEntry where
  valid : Bool
  addr : Addr
  assoc : Assoc
  ps : Bool
  ready : Bool
  q : List Packet
deriving DecidableEq, Repr

/-- The output events (R50). -/
inductive Event where
  | deliver (frame : Option Packet) (route : Route) (toStack : Bool)
  | mgmtDispatch (frame : Packet)
  | drop (code : BitVec 5)
  | actionDeauth (station : Addr) (code : Nat)
  | actionDisassoc (station : Addr) (code : Nat)
  | psDeliverOne (station : Nat)
  | psFlush (station : Nat) (frames : List Packet)
  | replenish
deriving DecidableEq, Repr

/-! ### Parameters and environment: the model's own fields -/

/-- The OPEN parameters of R8 that are numbers. N_KEYS and N_STA are the lengths of `State.ks` and `State.st`. No instruction
writes them (log 6). -/
structure Params where
  psqCap : Nat
  sttType2 : BitVec 16
deriving DecidableEq, Repr

/-- One move of the host's schedule (log 7): a transaction presented at the port, the reading of a key record, which has no
command code (R346, log 22), or a move left to the pipeline. -/
inductive HostMove where
  | command (bytes : List Byte)
  | readKey (handle : Nat)
  | yield
deriving DecidableEq, Repr

/-- The reassembler's answer to one `submit` (R11, R268). -/
inductive Answer where
  | complete (bytes : List Byte)
  | incomplete
deriving DecidableEq, Repr

/-- What a host operation answers (R340 to R354, log 8); `key` is what a
reading of the key store gives, a valid record or none (R346, log 22). -/
inductive Reply where
  | refused
  | done
  | frame (f : Option Packet)
  | frames (fs : List Packet)
  | value (v : BitVec Config.ctrWidth)
  | key (k : Option KeyRec)
deriving DecidableEq, Repr

/-- The world outside the block, as data (logs 2, 7, 8): the host's coming moves, the reassembler's coming answers, the
number of free answers already taken, the frames handed to the reassembler, and the last operation's reply to the host. -/
structure Env where
  port : List HostMove
  answers : List Answer
  freeCount : Nat
  submitted : List Packet
  reply : Option Reply
deriving DecidableEq, Repr

/-! ### State -/

/-- The state of one device (R21, R49). -/
structure State where
  /-- STAGE, the program counter of the block (R22) -/
  stage : Stage
  /-- CTX.* (R24) -/
  ctx : Ctx
  /-- FRM, or no frame (R27, R310, R328) -/
  frm : Option Frame
  /-- CFG.* (R30) -/
  cfg : Cfg
  /-- STAT.* (R32) -/
  stat : Stats
  /-- KS, N_KEYS records (R34) -/
  ks : List KeyRec
  /-- ST, N_STA entries, entry 0 the virtual station (R40, R42) -/
  st : List StaEntry
  /-- LOCK (R48) -/
  lock : Bool
  /-- OUT, oldest event first (R50) -/
  out : List Event
  /-- the OPEN parameters (R8, log 6) -/
  par : Params
  /-- the world outside (logs 2, 7, 8) -/
  env : Env
deriving DecidableEq, Repr

/-- Why a step has no next state. All are safe: the spec says these situations cannot occur under the sequencer (R25, I22). -/
inductive Fault where
  /-- an operation read a context register that holds no value (R25); raised by the register reads of Ops; safe -/
  | ctxUnwritten (r : CtxReg)
  /-- an operation that needs the frame ran while FRM holds none (R27, R328); raised by the frame reads of Ops; safe -/
  | noFrame
  /-- HEAD + LEN runs past the buffer, so a live byte does not exist (R27, R74); raised by MemRead and MemWrite; safe -/
  | bufferOverrun
  /-- a key handle that names no record of KS (R24, R36); raised by the key reads of Ops; safe -/
  | noKeyRecord
  /-- a station handle that is none or names no entry of ST (R24, R43); raised by the station accesses of Ops; safe -/
  | noStation
  /-- the reserved station state, which is never written (R41, R117); raised by APCTL; safe -/
  | reservedState
  /-- RPLCHK found a replay under a suite other than TKIP and CCMP, for which it never runs (R251, R255); raised by RPLCHK;
  safe -/
  | replaySuite
  /-- no line of the sequencer's successor function applies (R23, R312); raised by the sequencer; safe -/
  | noSuccessor
  /-- the sequencer issued a word that selects no row; it never does (R115); raised by the step; safe -/
  | undecodable (e : DecodeError)
deriving DecidableEq, Repr

/-- The instructions the model refuses. -/
inductive Refusal where
  /-- no meaning is written yet for the instruction of this mnemonic; raised by exec's arm only; safe -/
  | notModelled (mnemonic : String)
deriving DecidableEq, Repr

/-! ### Reset (R52, R354, R410) -/

/-- No context register holds a value (R25, R52). -/
def Ctx.empty : Ctx :=
  { wlen := none, fc := none, tag := none, isWep := none, isFrag := none, isMcast := none, isPspoll := none,
    hdrlen := none, ta := none, sta := none, iv := none, kidx := none, extIv := none, usePw := none, key := none,
    suite := none, tscLo := none, tscHi := none, decryptOk := none, da := none, sa := none, route := none, reason := none,
    toStack := none, dec := false }

/-- CFG after reset (R52). -/
def Cfg.reset : Cfg :=
  { apMode := false, akm := .noAkm, pairwiseSuite := .noSuite, groupSuite := .noSuite, bssid := Addr.zero }

/-- Every counter 0 (R52). -/
def Stats.reset : Stats :=
  { malformed := 0, class2 := 0, class3 := 0, wepUndecryptable := 0, cipherMismatch := 0, wepDecryptErr := 0,
    tkipDecryptErr := 0, tkipMicErr := 0, ccmpDecryptErr := 0, tkipReplay := 0, ccmpReplay := 0, psqOverflow := 0,
    overrun := 0, duplicate := 0 }

/-- An invalid key record; the fields the spec leaves unspecified are zero (R52, R410, log 9). -/
def KeyRec.invalid : KeyRec :=
  { valid := false, scope := .group, addr := Addr.zero, kidx := 0, suite := .noSuite, material := [], tscLo := 0, tscHi := 0 }

/-- Virtual station 0 after reset (R42, R52); its STATE is not used (log 9). -/
def StaEntry.virtual : StaEntry :=
  { valid := true, addr := Addr.broadcast, assoc := .unauthenticated, ps := false, ready := false, q := [] }

/-- An invalid station entry; the fields the spec leaves unspecified are zero (R52, R410, log 9). -/
def StaEntry.invalid : StaEntry :=
  { valid := false, addr := Addr.zero, assoc := .unauthenticated, ps := false, ready := false, q := [] }

/-- The station table after reset with `n` entries: entry 0 the virtual station, the others invalid (R52). -/
def resetStations (n : Nat) : List StaEntry := StaEntry.virtual :: List.replicate (n - 1) StaEntry.invalid

/-- The reset state of a device with `nKeys` key records, `nSta` station entries, the parameters `p` and the environment `e`
(R52). -/
def State.resetWith (nKeys nSta : Nat) (p : Params) (e : Env) : State :=
  { stage := .idle, ctx := Ctx.empty, frm := none, cfg := Cfg.reset, stat := Stats.reset,
    ks := List.replicate nKeys KeyRec.invalid, st := resetStations nSta, lock := false, out := [], par := p, env := e }

/-- The parameters that `State.reset` names (R8, log 6). -/
def Params.named : Params := { psqCap := 4, sttType2 := sttType2Default }

/-- No host move, no answer, no submission, no reply (logs 2, 7, 8). -/
def Env.quiet : Env := { port := [], answers := [], freeCount := 0, submitted := [], reply := none }

/-- The machine right after reset, with 8 key records, 8 station entries and the parameters of log 6. -/
def State.reset : State := State.resetWith 8 8 Params.named Env.quiet

end Sys2Proof.Machine
end

