-- ==== Sys2Proof/Machine/Ops.lean ====
section
/-! DEFINITION. The named operations every meaning is written with: codes, register reads and writes, the frame space
(spec 20_memory.md R74 to R78), the tables, the events, and the drop path (60_exceptions.md R385), which is the block's one
way of taking an exception. There is no return from it (R387). -/
namespace Sys2Proof.Machine

/-! ### Codes (R22, R30, R35, R41, R114, R322, R371) -/

/-- The stage codes (R22). -/
def Stage.code (s : Stage) : BitVec 4 :=
  match s with
  | .idle => 0
  | .raw => 1
  | .lengthValidated => 2
  | .classified => 3
  | .apFiltered => 4
  | .decrypted => 5
  | .defragmented => 6
  | .replayChecked => 7
  | .headerTranslated => 8
  | .delivered => 9
  | .dropped => 10

/-- The stages in which no pass is in progress (R23, R310). -/
def Stage.quiet (s : Stage) : Bool :=
  match s with
  | .idle | .delivered | .dropped => true
  | .raw | .lengthValidated | .classified | .apFiltered | .decrypted | .defragmented | .replayChecked
  | .headerTranslated => false

/-- CTX.TAG's codes (R24). -/
def FrameType.code (t : FrameType) : BitVec 2 :=
  match t with
  | .mgmt => 0
  | .ctrl => 1
  | .data => 2

/-- The cipher-suite codes (R35). -/
def Suite.code (s : Suite) : BitVec 2 :=
  match s with
  | .noSuite => 0
  | .wep => 1
  | .tkip => 2
  | .ccmp => 3

/-- The suite of a code the host presents; a wider value names none (R342, R344). -/
def suiteOfNat (n : Nat) : Option Suite :=
  match n with
  | 0 => some .noSuite
  | 1 => some .wep
  | 2 => some .tkip
  | 3 => some .ccmp
  | _ => none

/-- CFG.AKM's codes (R30). -/
def Akm.code (a : Akm) : BitVec 3 :=
  match a with
  | .noAkm => 0
  | .wpa => 1
  | .wpaPsk => 2
  | .wpa2 => 3
  | .wpa2Psk => 4

/-- The AKM of a code the host presents; 5 to 7 are reserved and wider values do not fit (R30, R31, R342). -/
def akmOfNat (n : Nat) : Option Akm :=
  match n with
  | 0 => some .noAkm
  | 1 => some .wpa
  | 2 => some .wpaPsk
  | 3 => some .wpa2
  | 4 => some .wpa2Psk
  | _ => none

/-- The station-state codes (R41). -/
def Assoc.code (a : Assoc) : BitVec 2 :=
  match a with
  | .unauthenticated => 0
  | .authenticated => 1
  | .associated => 2

/-- The station state of a code the host presents (R41, R347). -/
def assocOfNat (n : Nat) : Option Assoc :=
  match n with
  | 0 => some .unauthenticated
  | 1 => some .authenticated
  | 2 => some .associated
  | _ => none

/-- The scope of a code the host presents (R34, R344). -/
def scopeOfNat (n : Nat) : Option Scope :=
  match n with
  | 0 => some .group
  | 1 => some .pairwise
  | _ => none

/-- The route codes (R322). -/
def Route.code (r : Route) : Nat :=
  match r with
  | .toStack => 0
  | .relayFlood => 1
  | .relayUcast _ => 2
  | .queuedMcast => 3
  | .queuedSta _ => 4

/-- The reason codes (R371). -/
def reasonCode (r : Reason) : BitVec 5 :=
  match r with
  | .malformedLength => 1
  | .malformedReservedType => 2
  | .malformedTruncated => 3
  | .malformedMcastFragment => 4
  | .cipherMismatch => 5
  | .integrityWep => 6
  | .integrityTkip => 7
  | .integrityTkipMic => 8
  | .integrityCcmp => 9
  | .replayTkip => 10
  | .replayCcmp => 11
  | .reassemblyIncomplete => 12
  | .class2 => 13
  | .class3 => 14
  | .noKey => 15
  | .noKeySuiteNone => 16
  | .noKeyIvFormat => 17
  | .queueOverflow => 18

/-- The counter of a reason, when it has one (R371). -/
def reasonCounter (r : Reason) : Option Counter :=
  match r with
  | .malformedLength | .malformedReservedType | .malformedTruncated | .malformedMcastFragment => some .malformed
  | .cipherMismatch => some .cipherMismatch
  | .integrityWep => some .wepDecryptErr
  | .integrityTkip => some .tkipDecryptErr
  | .integrityTkipMic => some .tkipMicErr
  | .integrityCcmp => some .ccmpDecryptErr
  | .replayTkip => some .tkipReplay
  | .replayCcmp => some .ccmpReplay
  | .reassemblyIncomplete => none
  | .class2 => some .class2
  | .class3 => some .class3
  | .noKey | .noKeySuiteNone | .noKeyIvFormat => some .wepUndecryptable
  | .queueOverflow => some .psqOverflow

/-! ### Statistics (R32, R33) -/

/-- The value of a counter. -/
def Stats.get (t : Stats) (c : Counter) : BitVec Config.ctrWidth :=
  match c with
  | .malformed => t.malformed
  | .class2 => t.class2
  | .class3 => t.class3
  | .wepUndecryptable => t.wepUndecryptable
  | .cipherMismatch => t.cipherMismatch
  | .wepDecryptErr => t.wepDecryptErr
  | .tkipDecryptErr => t.tkipDecryptErr
  | .tkipMicErr => t.tkipMicErr
  | .ccmpDecryptErr => t.ccmpDecryptErr
  | .tkipReplay => t.tkipReplay
  | .ccmpReplay => t.ccmpReplay
  | .psqOverflow => t.psqOverflow
  | .overrun => t.overrun
  | .duplicate => t.duplicate

/-- `STAT.X <- (STAT.X + 1) mod 2^CTR_WIDTH` (R33). -/
def Stats.bump (t : Stats) (c : Counter) : Stats :=
  match c with
  | .malformed => { t with malformed := t.malformed + 1 }
  | .class2 => { t with class2 := t.class2 + 1 }
  | .class3 => { t with class3 := t.class3 + 1 }
  | .wepUndecryptable => { t with wepUndecryptable := t.wepUndecryptable + 1 }
  | .cipherMismatch => { t with cipherMismatch := t.cipherMismatch + 1 }
  | .wepDecryptErr => { t with wepDecryptErr := t.wepDecryptErr + 1 }
  | .tkipDecryptErr => { t with tkipDecryptErr := t.tkipDecryptErr + 1 }
  | .tkipMicErr => { t with tkipMicErr := t.tkipMicErr + 1 }
  | .ccmpDecryptErr => { t with ccmpDecryptErr := t.ccmpDecryptErr + 1 }
  | .tkipReplay => { t with tkipReplay := t.tkipReplay + 1 }
  | .ccmpReplay => { t with ccmpReplay := t.ccmpReplay + 1 }
  | .psqOverflow => { t with psqOverflow := t.psqOverflow + 1 }
  | .overrun => { t with overrun := t.overrun + 1 }
  | .duplicate => { t with duplicate := t.duplicate + 1 }

/-! ### The frame space as data (R27, R70 to R78) -/

/-- One byte of the frame space: the live byte at offset `off`, none beyond the live region (R70, R74). -/
def Frame.byte? (f : Frame) (off : Nat) : Option Byte :=
  if off < f.len then f.buf[f.head + off]? else none

/-- The live bytes of a frame, in offset order (R27). -/
def Frame.live (f : Frame) : List Byte := (f.buf.drop f.head).take f.len

/-- The frame as it leaves the block or is queued: its live bytes and its metadata (R28, R74, log 5). -/
def Frame.packet (f : Frame) : Packet := { bytes := f.live, info := f.info }

/-- The live bytes as address and byte pairs, addresses rising from 0: the frame space in the form of `Host.Cell` (log 10). -/
def Frame.cells (f : Frame) : List Host.Cell := f.live.zipIdx.map fun c => (c.2, c.1)

/-- The bytes a frame of well-formed memory holds at offsets `off .. off+n-1` (R74). -/
def Frame.slice (f : Frame) (off n : Nat) : List Byte := (f.buf.drop (f.head + off)).take n

/-- `v` laid over the buffer at absolute position `k` (R75). -/
def overlay (buf : List Byte) (k : Nat) (v : List Byte) : List Byte := buf.take k ++ v ++ buf.drop (k + v.length)

/-- The frame with the bytes `v` written at offset `off` (R75). -/
def Frame.write (f : Frame) (off : Nat) (v : List Byte) : Frame := { f with buf := overlay f.buf (f.head + off) v }

/-- The frame without its first `n` live bytes (R76). -/
def Frame.advance (f : Frame) (n : Nat) : Frame := { f with head := f.head + n, len := f.len - n }

/-- The frame without its last `n` live bytes (R78). -/
def Frame.truncate (f : Frame) (n : Nat) : Frame := { f with len := f.len - n }

/-- The frame with the reassembler's bytes and the pass's metadata (R77). -/
def Frame.replace (f : Frame) (b : List Byte) : Frame := { f with buf := b, head := 0, len := b.length }

/-- A submitted frame (R310). -/
def Frame.submit (b : List Byte) (m : Meta) : Frame := { buf := b, head := 0, len := b.length, info := m }

/-- The frame memory is well formed: every live byte exists in the buffer (R27, log 10). -/
def Memory.wf (m : Option Frame) : Bool :=
  match m with
  | none => true
  | some f => decide (f.head + f.len ≤ f.buf.length)

/-- `n` bytes as a vector, for the length-preserving cipher functions of R10; every use has `b.length = n`. -/
def toVec (n : Nat) (b : List Byte) : Vector Byte n := Vector.ofFn fun i => byteAt b i

/-! ### Lookups (R36, R43, R46) -/

/-- The record `k` answers `(scope, addr, kidx)`; a pairwise record is matched whatever the index (R36). -/
def KeyRec.answers (k : KeyRec) (scope : Scope) (addr : Addr) (kidx : BitVec 2) : Bool :=
  k.valid && k.scope == scope && k.addr == addr && (scope == .pairwise || k.kidx == kidx)

/-- `KS.lookup(scope, addr, kidx)`: the handle of the record that answers (R36). -/
def ksLookup (ks : List KeyRec) (scope : Scope) (addr : Addr) (kidx : BitVec 2) : Option Nat :=
  ks.findIdx? fun k => k.answers scope addr kidx

/-- `ST.lookup(addr)`: the handle of the valid entry of that address, never entry 0 (R42, R43). -/
def stLookup (st : List StaEntry) (addr : Addr) : Option Nat :=
  ((st.drop 1).findIdx? fun e => e.valid && e.addr == addr).map (· + 1)

/-- `count_assoc` (R46). -/
def countAssoc (st : List StaEntry) : Nat := (st.drop 1).countP fun e => e.valid && e.assoc == .associated

/-- `any_ps`: entry 0's flag or a valid entry's (R46). -/
def anyPs (st : List StaEntry) : Bool :=
  (st.take 1).any (fun e => e.ps) || (st.drop 1).any (fun e => e.valid && e.ps)

/-- `akm_is_wpa` (R31). -/
def akmIsWpa (a : Akm) : Bool :=
  match a with
  | .noAkm => false
  | .wpa | .wpaPsk | .wpa2 | .wpa2Psk => true

/-! ### The drop path (R385) -/

/-- `raise X`, one atomic step: count, record the code, emit `DROP`, let the frame go (freed, or left with the reassembler),
`STAGE <- Dropped`, `LOCK <- 0` (R385, R326, R376). -/
def dropPath (r : Reason) (s : State) : State :=
  { s with
    stat := (match reasonCounter r with | some c => s.stat.bump c | none => s.stat),
    ctx := { s.ctx with reason := some (reasonCode r) },
    out := s.out ++ [.drop (reasonCode r)],
    frm := none,
    stage := .dropped,
    lock := false }

/-! ### Actions: state changes that may raise or be stuck -/

/-- What ends an operation early: a raise (R385), or a situation the sequencer excludes (R25). -/
inductive Stop where
  | raise (r : Reason)
  | stuck (f : Fault)
deriving DecidableEq, Repr

/-- A piece of an operation: what it wrote before a raise stays (R386). -/
abbrev Act (α : Type) := EStateM Stop State α

/-- An operation as a step: a raise runs the drop path on the state the operation had reached (R385, R386). -/
def finish (m : Act Unit) (s : State) : Host.Outcome State Fault Refusal :=
  match m.run s with
  | .ok _ t => .next t
  | .error (.raise r) t => .next (dropPath r t)
  | .error (.stuck f) _ => .fault f

/-- `raise X` (R14). -/
def raise (r : Reason) : Act Unit := fun s => .error (.raise r) s

/-- The model is stuck (R25). -/
def stuck (f : Fault) : Act Unit := fun s => .error (.stuck f) s

/-- `if not c: raise X`. -/
def require (c : Bool) (r : Reason) : Act Unit := fun s => if c then .ok () s else .error (.raise r) s

/-- The value of an optional, stuck where it is absent. -/
def demand {α : Type} (f : Fault) (o : Option α) : Act α := fun s =>
  match o with
  | some a => .ok a s
  | none => .error (.stuck f) s

/-- A read of a context register; stuck where it holds no value (R25). -/
def readCtx {α : Type} (r : CtxReg) (get : Ctx → Option α) : Act α := fun s =>
  match get s.ctx with
  | some a => .ok a s
  | none => .error (.stuck (.ctxUnwritten r)) s

/-- A write of context registers. -/
def writeCtx (f : Ctx → Ctx) : Act Unit := fun s => .ok () { s with ctx := f s.ctx }

/-- A read of any part of the state that always holds a value. -/
def look {α : Type} (f : State → α) : Act α := fun s => .ok (f s) s

/-- `STAGE <- x` (R14). -/
def setStage (x : Stage) : Act Unit := fun s => .ok () { s with stage := x }

/-- `LOCK <- 0` (R86). -/
def unlock : Act Unit := fun s => .ok () { s with lock := false }

/-- `emit EVENT(args)` (R14). -/
def emit (e : Event) : Act Unit := fun s => .ok () { s with out := s.out ++ [e] }

/-- `count(NAME)` (R33). -/
def count (c : Counter) : Act Unit := fun s => .ok () { s with stat := s.stat.bump c }

/-- The current frame; stuck where there is none. -/
def theFrame : Act Frame := fun s =>
  match s.frm with
  | some f => .ok f s
  | none => .error (.stuck .noFrame) s

/-- `FRM <- x`. -/
def setFrame (x : Option Frame) : Act Unit := fun s => .ok () { s with frm := x }

/-- `FRM.LEN` (R27). -/
def frmLen : Act Nat := fun s =>
  match s.frm with
  | some f => .ok f.len s
  | none => .error (.stuck .noFrame) s

/-- `MemRead(off, n)` (R74). -/
def memRead (off n : Nat) : Act (List Byte) := fun s =>
  match s.frm with
  | none => .error (.stuck .noFrame) s
  | some f =>
    if f.len < off + n then .error (.raise .malformedTruncated) s
    else if f.buf.length < f.head + off + n then .error (.stuck .bufferOverrun) s
    else .ok (f.slice off n) s

/-- `MemWrite(off, n, v)` with `n` the length of `v` (R75). -/
def memWrite (off : Nat) (v : List Byte) : Act Unit := fun s =>
  match s.frm with
  | none => .error (.stuck .noFrame) s
  | some f =>
    if f.len < off + v.length then .error (.raise .malformedTruncated) s
    else if f.buf.length < f.head + off + v.length then .error (.stuck .bufferOverrun) s
    else .ok () { s with frm := some (f.write off v) }

/-- `advance_head(n)` (R76). -/
def advanceHead (n : Nat) : Act Unit := fun s =>
  match s.frm with
  | none => .error (.stuck .noFrame) s
  | some f =>
    if f.len < n then .error (.raise .malformedTruncated) s
    else .ok () { s with frm := some (f.advance n) }

/-- `truncate_tail(n)` (R78). -/
def truncateTail (n : Nat) : Act Unit := fun s =>
  match s.frm with
  | none => .error (.stuck .noFrame) s
  | some f =>
    if f.len < n then .error (.raise .malformedTruncated) s
    else .ok () { s with frm := some (f.truncate n) }

/-- `replace_frame(f)`: the pass's metadata is kept (R77, R269). -/
def replaceFrame (b : List Byte) : Act Unit := fun s =>
  match s.frm with
  | none => .error (.stuck .noFrame) s
  | some f => .ok () { s with frm := some (f.replace b) }

/-- The record of a key handle. -/
def keyAt (h : Nat) : Act KeyRec := fun s =>
  match s.ks[h]? with
  | some k => .ok k s
  | none => .error (.stuck .noKeyRecord) s

/-- The record of CTX.KEY. -/
def theKey : Act KeyRec := fun s =>
  match s.ctx.key with
  | none => .error (.stuck (.ctxUnwritten .key)) s
  | some h =>
    match s.ks[h]? with
    | some k => .ok k s
    | none => .error (.stuck .noKeyRecord) s

/-- `KS.update_replay(k, lo, hi)`: the only write of the pipeline to the key store (R38, R254). -/
def updateReplay (h : Nat) (lo : BitVec 16) (hi : BitVec 32) : Act Unit := fun s =>
  .ok () { s with ks := s.ks.modify h fun k => { k with tscLo := lo, tscHi := hi } }

/-- The entry of a station index. -/
def staAt (i : Nat) : Act StaEntry := fun s =>
  match s.st[i]? with
  | some e => .ok e s
  | none => .error (.stuck .noStation) s

/-- A write to the entry of a station index. -/
def modifySta (i : Nat) (f : StaEntry → StaEntry) : Act Unit := fun s =>
  if i < s.st.length then .ok () { s with st := s.st.modify i f } else .error (.stuck .noStation) s

/-- The station handle of CTX.STA; stuck where the register is unwritten or holds none (R24). -/
def theStation : Act Nat := fun s =>
  match s.ctx.sta with
  | none => .error (.stuck (.ctxUnwritten .sta)) s
  | some none => .error (.stuck .noStation) s
  | some (some i) => .ok i s

/-- `Reassembler.submit(FRM)`: the frame is handed over and the next answer taken, from the listed answers or, when none is
listed, a free one (R11, R266, R357, log 2). -/
def submitFrame (f : Frame) : Act Answer := fun s =>
  match s.env.answers with
  | a :: rest => .ok a { s with env := { s.env with answers := rest, submitted := s.env.submitted ++ [f.packet] } }
  | [] =>
    .ok (match Config.reassemblerAnswer s.env.freeCount with | some b => .complete b | none => .incomplete)
      { s with env := { s.env with freeCount := s.env.freeCount + 1, submitted := s.env.submitted ++ [f.packet] } }

/-! ### Host operations (R340) -/

/-- The reply to the host (log 8). -/
def State.withReply (s : State) (r : Reply) : State := { s with env := { s.env with reply := some r } }

/-- A host operation: refused with no effect while LOCK = 1 (R340). -/
def hostOp (f : State → State) (s : State) : Host.Outcome State Fault Refusal :=
  .next (if s.lock then s.withReply .refused else f s)

end Sys2Proof.Machine
end

