-- ==== Sys2Proof/Machine/Flags.lean ====
section
/-! DEFINITION. The flags the block computes from frame bits (spec 10_state.md R26; 30_encoding.md R102 to R105). -/
namespace Sys2Proof.Machine

/-- `fc[8]`, ToDS (R102). -/
def fcToDs (fc : BitVec 16) : Bool := fc.getLsbD 8
/-- `fc[9]`, FromDS (R102). -/
def fcFromDs (fc : BitVec 16) : Bool := fc.getLsbD 9
/-- `fc[10]`, more fragments (R102). -/
def fcMoreFrag (fc : BitVec 16) : Bool := fc.getLsbD 10
/-- `fc[12]`, the power-management bit (R102). -/
def fcPm (fc : BitVec 16) : Bool := fc.getLsbD 12
/-- `fc[14]`, the protected-frame bit, the source's "WEP bit" (R102, R144). -/
def fcProtected (fc : BitVec 16) : Bool := fc.getLsbD 14
/-- `sc[3:0]`, the fragment number (R104). -/
def scFragment (sc : BitVec 16) : BitVec 4 := sc.extractLsb' 0 4
/-- `is_fragment`: "more-fragments bit or nonzero fragment number" (R145). -/
def isFragment (fc : BitVec 16) (fragno : BitVec 4) : Bool := fcMoreFrag fc || fragno != 0
/-- The group bit: bit 0 of the first byte of an address (R72, R146). -/
def groupAddressed (a : Addr) : Bool := a.b0.getLsbD 0
/-- `ivb[7:6]`, the key index (R105). -/
def ivKidx (iv : Iv4) : BitVec 2 := iv.b3.extractLsb' 6 2
/-- `ivb[5]`, extended IV present, of the fourth IV byte (R105). -/
def ivbExt (ivb : Byte) : Bool := ivb.getLsbD 5
/-- `pairwise_configured` (R31). -/
def pairwiseConfigured (s : Suite) : Bool := s != .noSuite
/-- The `greater` test of the replay checker: a 48-bit unsigned comparison, the high part major (R252). -/
def tscGreater (nh oh : BitVec 32) (nl ol : BitVec 16) : Bool := decide (oh < nh) || (nh == oh && decide (ol < nl))
/-- The wrap exception (R253). -/
def tscWrap (nh oh : BitVec 32) : Bool := nh == 0 && oh == 0xFFFFFFFF
/-- The ICV test: `crc32` of the first `d` bytes against the four bytes behind them, least significant first (R219). -/
def icvOk (p : List Byte) (d : Nat) : Bool := Config.crc32 (p.take d) == le32 ((p.drop d).take 4)

end Sys2Proof.Machine
end

