-- ==== Sys2Proof/Machine/Operands.lean ====
section
/-! DEFINITION. How the operands of the operations are assembled from frame bits, registers and tables
(spec 30_encoding.md R107 to R113; 20_memory.md R80, R81). -/
namespace Sys2Proof.Machine

/-! ### Offsets of the header fields (R80) -/

/-- Offset of Addr1. -/
def offAddr1 : Nat := 4
/-- Offset of Addr2. -/
def offAddr2 : Nat := 10
/-- Offset of Addr3. -/
def offAddr3 : Nat := 16
/-- Offset of Sequence Control. -/
def offSeqCtl : Nat := 22
/-- Offset of Addr4. -/
def offAddr4 : Nat := 24

/-- CTX.HDRLEN of the selected row (R110, R148). -/
def hdrLenOf (r : HdrRow) : BitVec 5 :=
  match r with
  | .a4 => 30
  | .a3 => 24

/-- The header length of a frame-control word (R110). -/
def headerLength (fc : BitVec 16) : Nat := (hdrLenOf (hdrRow fc)).toNat

/-- `fc = le16(MemRead(0, 2))` (R80, R102). -/
def readFc : Act (BitVec 16) := do
  let b ← memRead 0 2
  pure (le16 b)

/-- An address field at an offset (R80). -/
def readAddr (off : Nat) : Act Addr := do
  let b ← memRead off 6
  pure (addrOf b)

/-- The fragment number: that of Sequence Control, or 0 in a frame shorter than 24 bytes (R104, R145). -/
def readFragno (l : Nat) : Act (BitVec 4) :=
  if 24 ≤ l then do
    let b ← memRead offSeqCtl 2
    pure (scFragment (le16 b))
  else pure 0

/-- `CTX.TA <- MemRead(10, 6)` when the frame has 16 bytes or more (R149). -/
def captureTa (l : Nat) : Act Unit :=
  if 16 ≤ l then do
    let a ← readAddr offAddr2
    writeCtx fun c => { c with ta := some a }
  else pure ()

/-! ### Words that select rows (R121) -/

/-- The word `{found, STATE[1:0]}` (R121); STATE is 0 when no entry is found. -/
def sta3Word (e : Option StaEntry) : BitVec 3 :=
  match e with
  | some x => (1 : BitVec 1) ++ x.assoc.code
  | none => 0

/-- The word `{IS_PSPOLL, PM, PS}` (R121). -/
def psw3Word (isPspoll pm ps : Bool) : BitVec 3 := BitVec.ofBool isPspoll ++ BitVec.ofBool pm ++ BitVec.ofBool ps

/-- Condition (a) of the key selection (R207). -/
def ksel1Word (akm : Akm) (isMcast : Bool) (pairwise : Suite) : BitVec 1 :=
  BitVec.ofBool (akmIsWpa akm && !isMcast && pairwiseConfigured pairwise)

/-- The associated entry of an address: its `PS` flag when `ST.lookup` finds an entry whose STATE is Associated (R180). -/
def associatedPs (st : List StaEntry) (a : Addr) : Option Bool :=
  match stLookup st a with
  | none => none
  | some i =>
    match st[i]? with
    | some e => if e.assoc = .associated then some e.ps else none
    | none => none

/-! ### Sequence values (R108, R109) -/

/-- `(iv[0] << 8) | iv[2]` (R108). -/
def tkipTscLo (iv : Iv4) : BitVec 16 := iv.b0 ++ iv.b2

/-- `iv[0] | (iv[1] << 8)` (R109). -/
def ccmpPnLo (iv : Iv4) : BitVec 16 := iv.b1 ++ iv.b0

/-- The WEP RC4 key `IV(3 bytes) ++ key_material` (R218). -/
def wepRc4Key (iv : Iv4) (material : List Byte) : List Byte := [iv.b0, iv.b1, iv.b2] ++ material

/-- The trailer bytes that STRIP removes (R232). -/
def trailerLength (s : Suite) : Nat :=
  match s with
  | .noSuite => 0
  | .wep => 4
  | .tkip => 4 + 8
  | .ccmp => 8

/-! ### The payload of the translator (R284, R286, R296) -/

/-- `IVLEN` of a frame: 0 unprotected, else 8 or 4 by the extended-IV bit of the frame itself (R116, R284). -/
def readIvLen (fc : BitVec 16) (h : Nat) : Act Nat :=
  if fcProtected fc then do
    let b ← memRead (h + 3) 1
    pure (if ivbExt (byteAt b 0) then 8 else 4)
  else pure 0

/-- `P = H + IVLEN`, with the size test of R286: a frame shorter than its header, or than `P + 8`, is malformed (R296). -/
def payloadOffset : Act Nat := do
  let l ← frmLen
  let fc ← readFc
  let h := headerLength fc
  require (h ≤ l) .malformedTruncated
  let ivLen ← readIvLen fc h
  require (h + ivLen + 8 ≤ l) .malformedTruncated
  pure (h + ivLen)

/-! ### Operands of the host (R342, R352, log 3) -/

/-- The configuration registers, by the port's number: their order in R30. -/
inductive CfgReg where
  | apMode | akm | pairwiseSuite | groupSuite | bssid
deriving DecidableEq, Repr

/-- The register of a number; a number above 4 names none (log 3). -/
def cfgRegOfNat (n : Nat) : Option CfgReg :=
  match n with
  | 0 => some .apMode
  | 1 => some .akm
  | 2 => some .pairwiseSuite
  | 3 => some .groupSuite
  | 4 => some .bssid
  | _ => none

/-- The counter of a number: its place in R32's table; a number above 13 names none (log 3). -/
def counterOfNat (n : Nat) : Option Counter :=
  match n with
  | 0 => some .malformed
  | 1 => some .class2
  | 2 => some .class3
  | 3 => some .wepUndecryptable
  | 4 => some .cipherMismatch
  | 5 => some .wepDecryptErr
  | 6 => some .tkipDecryptErr
  | 7 => some .tkipMicErr
  | 8 => some .ccmpDecryptErr
  | 9 => some .tkipReplay
  | 10 => some .ccmpReplay
  | 11 => some .psqOverflow
  | 12 => some .overrun
  | 13 => some .duplicate
  | _ => none

/-- CFG with one register written, or none when the value is outside the register's defined values (R30, R342). The spec does
not say what a `reg` that names no register of R30 does: that it writes nothing and is refused like an undefined value is the
model's choice (DESIGN CHOICE, log 23). -/
def cfgWritten (c : Cfg) (reg value : Nat) : Option Cfg :=
  match cfgRegOfNat reg with
  | some .apMode => if value < 2 then some { c with apMode := value == 1 } else none
  | some .akm => (akmOfNat value).map fun a => { c with akm := a }
  | some .pairwiseSuite => (suiteOfNat value).map fun a => { c with pairwiseSuite := a }
  | some .groupSuite => (suiteOfNat value).map fun a => { c with groupSuite := a }
  | some .bssid => if value < 2 ^ 48 then some { c with bssid := addrOf (leBytes 6 value) } else none
  | none => none

end Sys2Proof.Machine
end

