-- ==== Sys2Proof/Machine/ApFilter.lean ====
section
/-! DEFINITION. The access-point filter and the power-save queue selector (spec 41_ap_filter.md). -/
namespace Sys2Proof.Machine

/-! ### APCTL -/

/-- APCTL.DEAUTH (R166): the action's reason code is 6 (R168). -/
def opApctlDeauth : Act Unit := do
  let ta ← readCtx .ta Ctx.ta
  emit (.actionDeauth ta 6)
  raise .class2

/-- APCTL.DISASSOC (R167): the action's reason code is 7 (R168). -/
def opApctlDisassoc : Act Unit := do
  let ta ← readCtx .ta Ctx.ta
  emit (.actionDisassoc ta 7)
  raise .class3

/-- APCTL.PSPOLL (R169): READY is set and one delivery scheduled; the queue and PS are left alone. -/
def opApctlPspoll : Act Unit := do
  let i ← theStation
  modifySta i fun e => { e with ready := true }
  emit (.psDeliverOne i)

/-- APCTL.PSWAKE (R171): PS and READY are cleared and the whole queue leaves in one event, oldest frame first. -/
def opApctlPswake : Act Unit := do
  let i ← theStation
  let e ← staAt i
  modifySta i fun e => { e with ps := false, ready := false, q := [] }
  emit (.psFlush i e.q)

/-- APCTL.PSSET (R172): the station and virtual station 0 doze. -/
def opApctlPsset : Act Unit := do
  let i ← theStation
  modifySta i fun e => { e with ps := true }
  modifySta 0 fun e => { e with ps := true }

/-- APCTL.PSNOP (R173): no state changes. -/
def opApctlPsnop : Act Unit := pure ()

/-- The row of the `psw3` group. -/
def runPsw3 (r : Psw3Row) : Act Unit :=
  match r with
  | .pspoll => opApctlPspoll
  | .pswake => opApctlPswake
  | .psset => opApctlPsset
  | .psnop => opApctlPsnop

/-- The power-save half of APCTL, for an Associated transmitter (R162). -/
def apctlPowerSave : Act Unit := do
  let i ← theStation
  let e ← staAt i
  let isPspoll ← readCtx .isPspoll Ctx.isPspoll
  let fc ← readCtx .fc Ctx.fc
  runPsw3 (psw3Row (psw3Word isPspoll (fcPm fc) e.ps))
  setStage .apFiltered

/-- The row of the `sta3` group; an Associated transmitter passes on to `psw3` (R162). -/
def runSta3 (r : Sta3Row) : Act Unit :=
  match r with
  | .deauth => opApctlDeauth
  | .disassoc => opApctlDisassoc
  | .passOn => apctlPowerSave
  | .reserved => stuck .reservedState

/-- `CTX.TA`, whose absence is a malformed frame here (R162). -/
def requireTa : Act Addr := fun s =>
  match s.ctx.ta with
  | some a => .ok a s
  | none => .error (.raise .malformedTruncated) s

/-- APCTL (R162): the class rules before any power-save state (R164). -/
def opApctl : Act Unit := do
  let ta ← requireTa
  let st ← look State.st
  writeCtx fun c => { c with sta := some (stLookup st ta) }
  runSta3 (sta3Row (sta3Word ((stLookup st ta).bind fun i => st[i]?)))

/-! ### PSQ.PUSH and ROUTE -/

/-- PSQ.PUSH (R186, R187): the frame is moved into the entry's queue, or refused by a full one. -/
def opPsqPush (i : Nat) : Act Unit := do
  let e ← staAt i
  let par ← look State.par
  require (e.q.length < par.psqCap) .queueOverflow
  let f ← theFrame
  modifySta i fun e => { e with q := e.q ++ [f.packet] }
  setFrame none

/-- `CTX.ROUTE <- r ; to_stack <- b`. -/
def setRoute (r : Route) (b : Bool) : Act Unit := writeCtx fun c => { c with route := some r, toStack := some b }

/-- ROUTE.NOSTA (R181). -/
def opRouteNosta : Act Unit := setRoute .toStack true

/-- The clone's push: a full shared queue discards the clone and counts (R183, R184). -/
def pushClone (f : Frame) : Act Unit := do
  let e ← staAt 0
  let par ← look State.par
  if e.q.length < par.psqCap then modifySta 0 fun e => { e with q := e.q ++ [f.packet] }
  else count .psqOverflow

/-- ROUTE.MCQ (R183, R184). -/
def opRouteMcq : Act Unit := do
  let f ← theFrame
  pushClone f
  setRoute .queuedMcast true

/-- ROUTE.FLOOD (R183). -/
def opRouteFlood : Act Unit := setRoute .relayFlood true

/-- The station of CTX.DA, the operand `d` of the unicast rows (R180, R182). -/
def destination : Act Nat := do
  let da ← readCtx .da Ctx.da
  let st ← look State.st
  demand .noStation (stLookup st da)

/-- ROUTE.UCQ (R182): the frame is moved into the destination's queue. -/
def opRouteUcq : Act Unit := do
  let i ← destination
  opPsqPush i
  setRoute (.queuedSta i) false

/-- ROUTE.UCRELAY (R182). -/
def opRouteUcrelay : Act Unit := do
  let i ← destination
  setRoute (.relayUcast i) false

/-- ROUTE.LOCAL (R185). -/
def opRouteLocal : Act Unit := setRoute .toStack true

/-- The row of the `route` group. -/
def runRoute (r : RteRow) : Act Unit :=
  match r with
  | .nosta => opRouteNosta
  | .mcq => opRouteMcq
  | .flood => opRouteFlood
  | .ucq => opRouteUcq
  | .ucrelay => opRouteUcrelay
  | .toStack => opRouteLocal

/-- ROUTE (R180), on the Ethernet destination CTX.DA. -/
def opRoute : Act Unit := do
  let da ← readCtx .da Ctx.da
  let st ← look State.st
  runRoute (rteRow (countAssoc st) (groupAddressed da) (anyPs st) (associatedPs st da))

/-- APCTL. -/
def execApctl (s : State) : Host.Outcome State Fault Refusal := finish opApctl s
/-- APCTL.DEAUTH. -/
def execApctlDeauth (s : State) : Host.Outcome State Fault Refusal := finish opApctlDeauth s
/-- APCTL.DISASSOC. -/
def execApctlDisassoc (s : State) : Host.Outcome State Fault Refusal := finish opApctlDisassoc s
/-- APCTL.PSPOLL. -/
def execApctlPspoll (s : State) : Host.Outcome State Fault Refusal := finish opApctlPspoll s
/-- APCTL.PSWAKE. -/
def execApctlPswake (s : State) : Host.Outcome State Fault Refusal := finish opApctlPswake s
/-- APCTL.PSSET. -/
def execApctlPsset (s : State) : Host.Outcome State Fault Refusal := finish opApctlPsset s
/-- APCTL.PSNOP. -/
def execApctlPsnop (s : State) : Host.Outcome State Fault Refusal := finish opApctlPsnop s
/-- ROUTE. -/
def execRoute (s : State) : Host.Outcome State Fault Refusal := finish opRoute s
/-- ROUTE.NOSTA. -/
def execRouteNosta (s : State) : Host.Outcome State Fault Refusal := finish opRouteNosta s
/-- ROUTE.MCQ. -/
def execRouteMcq (s : State) : Host.Outcome State Fault Refusal := finish opRouteMcq s
/-- ROUTE.FLOOD. -/
def execRouteFlood (s : State) : Host.Outcome State Fault Refusal := finish opRouteFlood s
/-- ROUTE.UCQ. -/
def execRouteUcq (s : State) : Host.Outcome State Fault Refusal := finish opRouteUcq s
/-- ROUTE.UCRELAY. -/
def execRouteUcrelay (s : State) : Host.Outcome State Fault Refusal := finish opRouteUcrelay s
/-- ROUTE.LOCAL. -/
def execRouteLocal (s : State) : Host.Outcome State Fault Refusal := finish opRouteLocal s
/-- PSQ.PUSH. -/
def execPsqPush (entry : Nat) (s : State) : Host.Outcome State Fault Refusal := finish (opPsqPush entry) s

end Sys2Proof.Machine
end

