-- ==== Sys2Proof/Machine/Classifier.lean ====
section
/-! DEFINITION. The frame classifier (spec 40_classifier.md). -/
namespace Sys2Proof.Machine

/-- LENCHK (R141). -/
def opLenchk : Act Unit := do
  let w ← readCtx .wlen Ctx.wlen
  require (Config.minWrapped ≤ w.toNat && w.toNat ≤ Config.maxWrapped) .malformedLength
  let l ← frmLen
  require (Config.minLogical ≤ l && l ≤ Config.maxLogical) .malformedLength
  setStage .lengthValidated

/-- CLS.MGMT: `CTX.TAG <- 0` (R143). -/
def opClsMgmt : Act Unit := writeCtx fun c => { c with tag := some .mgmt }

/-- CLS.CTRL: `CTX.TAG <- 1` (R143). -/
def opClsCtrl : Act Unit := writeCtx fun c => { c with tag := some .ctrl }

/-- CLS.DATA: `CTX.TAG <- 2` (R143). -/
def opClsData : Act Unit := writeCtx fun c => { c with tag := some .data }

/-- CLS.RSVD: the reserved type is dropped (R150). -/
def opClsRsvd : Act Unit := raise .malformedReservedType

/-- CLS.PSPOLL: `CTX.IS_PSPOLL <- 1` (R147). -/
def opClsPspoll : Act Unit := writeCtx fun c => { c with isPspoll := some true }

/-- `CTX.IS_PSPOLL <- 0`, where the row CLS.PSPOLL does not match (R143). -/
def notPspoll : Act Unit := writeCtx fun c => { c with isPspoll := some false }

/-- HDR.A4: `CTX.HDRLEN <- 30` (R148). -/
def opHdrA4 : Act Unit := writeCtx fun c => { c with hdrlen := some (hdrLenOf .a4) }

/-- HDR.A3: `CTX.HDRLEN <- 24` (R148). -/
def opHdrA3 : Act Unit := writeCtx fun c => { c with hdrlen := some (hdrLenOf .a3) }

/-- The row of the `type` group (R143). -/
def runType (r : TypeRow) : Act Unit :=
  match r with
  | .mgmt => opClsMgmt
  | .ctrl => opClsCtrl
  | .data => opClsData
  | .rsvd => opClsRsvd

/-- The row of the `hdrlen` group (R148). -/
def runHdr (r : HdrRow) : Act Unit :=
  match r with
  | .a4 => opHdrA4
  | .a3 => opHdrA3

/-- A data frame shorter than its own header is malformed (R151). -/
def requireHeader (r : TypeRow) (fc : BitVec 16) (l : Nat) : Act Unit :=
  require (!(r == .data && decide (l < headerLength fc))) .malformedTruncated

/-- CLASSIFY (R143): the rows of its groups are run where its pseudocode writes their registers. -/
def opClassify : Act Unit := do
  let fc ← readFc
  writeCtx fun c => { c with fc := some fc }
  runType (typeRow fc)
  writeCtx fun c => { c with isWep := some (fcProtected fc) }
  (if pspollHit fc then opClsPspoll else notPspoll)
  runHdr (hdrRow fc)
  let a1 ← readAddr offAddr1
  writeCtx fun c => { c with isMcast := some (groupAddressed a1) }
  let l ← frmLen
  let fragno ← readFragno l
  writeCtx fun c => { c with isFrag := some (isFragment fc fragno) }
  captureTa l
  requireHeader (typeRow fc) fc l
  setStage .classified

/-- LENCHK. -/
def execLenchk (s : State) : Host.Outcome State Fault Refusal := finish opLenchk s
/-- CLASSIFY. -/
def execClassify (s : State) : Host.Outcome State Fault Refusal := finish opClassify s
/-- CLS.MGMT. -/
def execClsMgmt (s : State) : Host.Outcome State Fault Refusal := finish opClsMgmt s
/-- CLS.CTRL. -/
def execClsCtrl (s : State) : Host.Outcome State Fault Refusal := finish opClsCtrl s
/-- CLS.DATA. -/
def execClsData (s : State) : Host.Outcome State Fault Refusal := finish opClsData s
/-- CLS.RSVD. -/
def execClsRsvd (s : State) : Host.Outcome State Fault Refusal := finish opClsRsvd s
/-- CLS.PSPOLL. -/
def execClsPspoll (s : State) : Host.Outcome State Fault Refusal := finish opClsPspoll s
/-- HDR.A4. -/
def execHdrA4 (s : State) : Host.Outcome State Fault Refusal := finish opHdrA4 s
/-- HDR.A3. -/
def execHdrA3 (s : State) : Host.Outcome State Fault Refusal := finish opHdrA3 s

end Sys2Proof.Machine
end

