-- ==== Sys2Proof/Machine/Decryption.lean ====
section
/-! DEFINITION. The decryption dispatcher (spec 42_decrypt.md). Throughout, `h` is CTX.HDRLEN and `l` is FRM.LEN at entry. -/
namespace Sys2Proof.Machine

/-- CTX.HDRLEN as a length. -/
def readHdrlen : Act Nat := do
  let h ← readCtx .hdrlen Ctx.hdrlen
  pure h.toNat

/-- IVPARSE (R203). -/
def opIvparse : Act Unit := do
  let h ← readHdrlen
  let b ← memRead h 4
  writeCtx fun c =>
    { c with iv := some (iv4Of b), kidx := some (ivKidx (iv4Of b)), extIv := some (ivbExt (iv4Of b).b3) }

/-- `CTX.KEY <- k` when a key was found. -/
def keepKey (k : Option Nat) : Act Unit :=
  match k with
  | some h => writeCtx fun c => { c with key := some h }
  | none => pure ()

/-- Step (a): the transmitter's pairwise key, the index ignored (R207, R208). -/
def lookupPairwise : Act (Option Nat) := do
  writeCtx fun c => { c with usePw := some true }
  let ta ← readCtx .ta Ctx.ta
  let ks ← look State.ks
  pure (ksLookup ks .pairwise ta 0)

/-- Step (b): the group key of the extracted index, filed under CFG.BSSID (R207, R208). -/
def lookupGroup : Act (Option Nat) := do
  writeCtx fun c => { c with usePw := some false }
  let kidx ← readCtx .kidx Ctx.kidx
  let cfg ← look State.cfg
  let ks ← look State.ks
  pure (ksLookup ks .group cfg.bssid kidx)

/-- KEYSEL.PW (R207 a). -/
def opKeyselPw : Act Unit := do
  let k ← lookupPairwise
  keepKey k

/-- KEYSEL.GRP (R207 b). -/
def opKeyselGrp : Act Unit := do
  let k ← lookupGroup
  keepKey k

/-- KEYSEL.BCAST (R207 c): the broadcast-address group key of the same index, or NoKey(NO_KEY) (R210). -/
def opKeyselBcast : Act Unit := do
  let kidx ← readCtx .kidx Ctx.kidx
  let ks ← look State.ks
  require (ksLookup ks .group Addr.broadcast kidx).isSome .noKey
  keepKey (ksLookup ks .group Addr.broadcast kidx)

/-- The lookup of the row that condition (a) selects. -/
def runKsel1 (r : Ksel1Row) : Act (Option Nat) :=
  match r with
  | .pw => lookupPairwise
  | .grp => lookupGroup

/-- The fallback (c), tried only when no key was resolved (R207, R208). -/
def orBroadcast (k : Option Nat) : Act Unit :=
  match k with
  | some h => keepKey (some h)
  | none => opKeyselBcast

/-- KEYSEL (R207). -/
def opKeysel : Act Unit := do
  let isMcast ← readCtx .isMcast Ctx.isMcast
  let cfg ← look State.cfg
  let k ← runKsel1 (ksel1Row (ksel1Word cfg.akm isMcast cfg.pairwiseSuite))
  orBroadcast k

/-- CIPHERCHK (R212): no cipher primitive has been called yet. -/
def opCipherchk : Act Unit := do
  let k ← theKey
  let usePw ← readCtx .usePw Ctx.usePw
  let cfg ← look State.cfg
  require (k.suite == (if usePw then cfg.pairwiseSuite else cfg.groupSuite)) .cipherMismatch
  writeCtx fun c => { c with suite := some k.suite }

/-- `CTX.DECRYPTOK <- b`. -/
def setDecryptOk (b : Bool) : Act Unit := writeCtx fun c => { c with decryptOk := some b }

/-- `CTX.TSC_LO <- lo ; CTX.TSC_HI <- hi`. -/
def setTsc (lo : BitVec 16) (hi : BitVec 32) : Act Unit :=
  writeCtx fun c => { c with tscLo := some lo, tscHi := some hi }

/-- DEC.NONE (R217). -/
def opDecNone : Act Unit := raise .noKeySuiteNone

/-- DEC.WEP (R218, R219, R220). -/
def opDecWep : Act Unit := do
  let extIv ← readCtx .extIv Ctx.extIv
  require (!extIv) .noKeyIvFormat
  let h ← readHdrlen
  let l ← frmLen
  require (h + 4 + 4 ≤ l) .malformedTruncated
  let d := l - h - 4 - 4
  let iv ← readCtx .iv Ctx.iv
  let k ← theKey
  let c ← memRead (h + 4) (d + 4)
  let p := (Config.rc4 (wepRc4Key iv k.material) (d + 4) (toVec (d + 4) c)).toList
  memWrite (h + 4) p
  setDecryptOk (icvOk p d)
  require (icvOk p d) .integrityWep

/-- DEC.TKIP (R222, R223, R224, R226). -/
def opDecTkip : Act Unit := do
  let extIv ← readCtx .extIv Ctx.extIv
  require extIv .integrityTkip
  let h ← readHdrlen
  let l ← frmLen
  require (h + 8 + 8 + 4 ≤ l) .malformedTruncated
  let ext ← memRead (h + 4) 4
  let iv ← readCtx .iv Ctx.iv
  setTsc (tkipTscLo iv) (le32 ext)
  let k ← theKey
  let ta ← readCtx .ta Ctx.ta
  let d := l - h - 8 - 4
  let c ← memRead (h + 8) (d + 4)
  let p := (Config.rc4 (Config.tkipMix k.material ta (tkipTscLo iv) (le32 ext)) (d + 4) (toVec (d + 4) c)).toList
  memWrite (h + 8) p
  require (icvOk p d) .integrityTkip
  let m ← memRead 0 (l - 4)
  require (Config.michaelOk k.material m) .integrityTkipMic
  setDecryptOk true

/-- DEC.CCMP (R224, R228): the frame is not modified when authentication fails. -/
def opDecCcmp : Act Unit := do
  let extIv ← readCtx .extIv Ctx.extIv
  require extIv .integrityCcmp
  let h ← readHdrlen
  let l ← frmLen
  require (h + 8 + 8 ≤ l) .malformedTruncated
  let ext ← memRead (h + 4) 4
  let iv ← readCtx .iv Ctx.iv
  setTsc (ccmpPnLo iv) (le32 ext)
  let d := l - h - 8 - 8
  let hdr ← memRead 0 h
  let body ← memRead (h + 8) (d + 8)
  let k ← theKey
  let r := Config.ccmpOpen k.material (ccmpPnLo iv) (le32 ext) hdr d (toVec (d + 8) body)
  setDecryptOk r.2
  require r.2 .integrityCcmp
  memWrite (h + 8) r.1.toList

/-- STRIP (R232); `dec` notes that DECRYPT completed (R312). -/
def opStrip : Act Unit := do
  let suite ← readCtx .suite Ctx.suite
  truncateTail (trailerLength suite)
  writeCtx fun c => { c with dec := true }
  setStage .decrypted

/-- IVPARSE. -/
def execIvparse (s : State) : Host.Outcome State Fault Refusal := finish opIvparse s
/-- KEYSEL. -/
def execKeysel (s : State) : Host.Outcome State Fault Refusal := finish opKeysel s
/-- KEYSEL.PW. -/
def execKeyselPw (s : State) : Host.Outcome State Fault Refusal := finish opKeyselPw s
/-- KEYSEL.GRP. -/
def execKeyselGrp (s : State) : Host.Outcome State Fault Refusal := finish opKeyselGrp s
/-- KEYSEL.BCAST. -/
def execKeyselBcast (s : State) : Host.Outcome State Fault Refusal := finish opKeyselBcast s
/-- CIPHERCHK. -/
def execCipherchk (s : State) : Host.Outcome State Fault Refusal := finish opCipherchk s
/-- DEC.NONE. -/
def execDecNone (s : State) : Host.Outcome State Fault Refusal := finish opDecNone s
/-- DEC.WEP. -/
def execDecWep (s : State) : Host.Outcome State Fault Refusal := finish opDecWep s
/-- DEC.TKIP. -/
def execDecTkip (s : State) : Host.Outcome State Fault Refusal := finish opDecTkip s
/-- DEC.CCMP. -/
def execDecCcmp (s : State) : Host.Outcome State Fault Refusal := finish opDecCcmp s
/-- STRIP. -/
def execStrip (s : State) : Host.Outcome State Fault Refusal := finish opStrip s

end Sys2Proof.Machine
end

