-- ==== Sys2Proof/Machine/HostPort.lean ====
section
/-! DEFINITION. The host operations (spec 47_host_interface.md; H.FRAME_IN: 46_pipeline.md R310). Each is atomic and, but for
H.RESET, refused with no effect while LOCK = 1 (R340, R354). A refusal is a next state in which only the reply changed; where
it is the model's and not the spec's, the definition says so. -/
namespace Sys2Proof.Machine

/-! ### H.FRAME_IN -/

/-- A wrapped length as CTX.WLEN holds it. R310 has the host present it saturated to 4095; that the block saturates it when it
is taken is the model's (DEDUCED, log 18). -/
def saturatedWlen (n : Nat) : BitVec 12 := BitVec.ofNat 12 (min n 4095)

/-- The acceptance of a frame, one atomic step (R310). -/
def acceptFrame (bytes : List Byte) (wlen : Nat) (m : Meta) (s : State) : State :=
  { s with
    lock := true
    ctx := { Ctx.empty with wlen := some (saturatedWlen wlen) }
    frm := some (Frame.submit bytes m)
    stage := .raw }

/-- H.FRAME_IN: accepted only in a quiet stage (R51, R310). -/
def hostFrameIn (bytes : List Byte) (wlen : Nat) (m : Meta) (s : State) : State :=
  if s.stage.quiet then (acceptFrame bytes wlen m s).withReply .done else s.withReply .refused

/-! ### H.CFG_WRITE -/

/-- H.CFG_WRITE (R342); the refusal of a number that names no register is the model's choice (DESIGN CHOICE, log 23). -/
def hostCfgWrite (reg value : Nat) (s : State) : State :=
  match cfgWritten s.cfg reg value with
  | some c => ({ s with cfg := c }).withReply .done
  | none => s.withReply .refused

/-! ### H.KEY_SET, H.KEY_DEL -/

/-- The record that H.KEY_SET writes (R344). -/
def keyRecord (scope : Scope) (addr : Addr) (kidx : BitVec 2) (suite : Suite) (material : List Byte) (lo : BitVec 16)
    (hi : BitVec 32) : KeyRec :=
  { valid := true, scope := scope, addr := addr, kidx := kidx, suite := suite, material := material, tscLo := lo, tscHi := hi }

/-- The record H.KEY_SET takes: the valid one that matches, else the first invalid one (R344, log 11). -/
def keySlot (ks : List KeyRec) (scope : Scope) (addr : Addr) (kidx : BitVec 2) : Option Nat :=
  match ksLookup ks scope addr kidx with
  | some h => some h
  | none => ks.findIdx? fun k => !k.valid

/-- The operand ranges of H.KEY_SET (R344). -/
def keyOperandsOk (kidx : Nat) (material : List Byte) (tscLo tscHi : Nat) : Bool :=
  decide (kidx < 4) && decide (1 ≤ material.length) && decide (material.length ≤ Config.maxKeyLen) && decide (tscLo < 2 ^ 16)
    && decide (tscHi < 2 ^ 32)

/-- The record of H.KEY_SET's operands, or none when a precondition fails (R344). -/
def keyOfOperands (scope : Nat) (addr : Addr) (kidx suite : Nat) (material : List Byte) (tscLo tscHi : Nat) : Option KeyRec :=
  match scopeOfNat scope, suiteOfNat suite with
  | some sc, some su =>
    if keyOperandsOk kidx material tscLo tscHi then
      some (keyRecord sc addr (BitVec.ofNat 2 kidx) su material (BitVec.ofNat 16 tscLo) (BitVec.ofNat 32 tscHi))
    else none
  | _, _ => none

/-- The key store with a record written, or none when there is no place for it (R344). -/
def keyStored (ks : List KeyRec) (k : KeyRec) : Option (List KeyRec) :=
  (keySlot ks k.scope k.addr k.kidx).map fun h => ks.set h k

/-- H.KEY_SET (R344). -/
def hostKeySet (scope : Nat) (addr : Addr) (kidx suite : Nat) (material : List Byte) (tscLo tscHi : Nat) (s : State) : State :=
  match (keyOfOperands scope addr kidx suite material tscLo tscHi).bind (keyStored s.ks) with
  | some ks => ({ s with ks := ks }).withReply .done
  | none => s.withReply .refused

/-- The record H.KEY_DEL removes (R345): an operand outside its range matches none. -/
def keyToDelete (ks : List KeyRec) (scope : Nat) (addr : Addr) (kidx : Nat) : Option Nat :=
  match scopeOfNat scope with
  | none => none
  | some .pairwise => ksLookup ks .pairwise addr 0
  | some .group => if kidx < 4 then ksLookup ks .group addr (BitVec.ofNat 2 kidx) else none

/-- H.KEY_DEL (R345): no effect when no record matches. -/
def hostKeyDel (scope : Nat) (addr : Addr) (kidx : Nat) (s : State) : State :=
  match keyToDelete s.ks scope addr kidx with
  | some h => ({ s with ks := s.ks.modify h fun k => { k with valid := false } }).withReply .done
  | none => s.withReply .done

/-! ### H.STA_SET, H.STA_DEL, H.PS_POP, H.STA0_PS_CLEAR -/

/-- Another valid entry already has the address (R347). -/
def addrTaken (st : List StaEntry) (i : Nat) (addr : Addr) : Bool :=
  st.zipIdx.any fun e => e.1.valid && e.1.addr == addr && e.2 != i

/-- The entry that H.STA_SET leaves, or none when a queue stands in the way (R347). -/
def staWritten (e : StaEntry) (addr : Addr) (a : Assoc) : Option StaEntry :=
  if e.valid && e.addr == addr then some { e with assoc := a }
  else if e.q = [] then some { valid := true, addr := addr, assoc := a, ps := false, ready := false, q := [] }
  else none

/-- The station table with entry `i` recorded, or none when H.STA_SET is refused (R347). -/
def staRecorded (st : List StaEntry) (i : Nat) (addr : Addr) (assoc : Nat) : Option (List StaEntry) :=
  match st[i]?, assocOfNat assoc with
  | some e, some a =>
    if decide (1 ≤ i) && !addrTaken st i addr && !groupAddressed addr then
      (staWritten e addr a).map fun e' => st.set i e'
    else none
  | _, _ => none

/-- H.STA_SET (R347). -/
def hostStaSet (i : Nat) (addr : Addr) (assoc : Nat) (s : State) : State :=
  match staRecorded s.st i addr assoc with
  | some st => ({ s with st := st }).withReply .done
  | none => s.withReply .refused

/-- A station entry after H.STA_DEL (R348). -/
def staDeleted (e : StaEntry) : StaEntry := { e with valid := false, ps := false, ready := false, q := [] }

/-- H.STA_DEL (R348): the queued frames go back to the host. -/
def hostStaDel (i : Nat) (s : State) : State :=
  match s.st[i]? with
  | some e =>
    if 1 ≤ i then ({ s with st := s.st.set i (staDeleted e) }).withReply (.frames e.q) else s.withReply .refused
  | none => s.withReply .refused

/-- H.PS_POP (R350): the oldest frame leaves, READY is cleared either way. -/
def hostPsPop (i : Nat) (s : State) : State :=
  match s.st[i]? with
  | some e =>
    if e.valid then
      ({ s with st := s.st.set i { e with ready := false, q := e.q.drop 1 } }).withReply (.frame e.q.head?)
    else s.withReply .refused
  | none => s.withReply .refused

/-- H.STA0_PS_CLEAR (R351). -/
def hostSta0PsClear (s : State) : State :=
  ({ s with st := s.st.modify 0 fun e => { e with ps := false } }).withReply .done

/-! ### Reading a key record (R346) -/

/-- What a reading gives of a key record: the record while it is valid, and nothing but that it is not while VALID = 0, so that
the fields of an invalid record are never read (R410). That such a reading answers none, where R346 does not speak of invalid
records, is the model's choice (DESIGN CHOICE, log 22). -/
def KeyRec.readable (k : KeyRec) : Option KeyRec := if k.valid then some k else none

/-- The host reads the key record of a handle, for reporting the replay counter: no effect on the block's state (R346). That
the record is named by its handle, and that a handle beyond the store is refused, are the model's choices (DESIGN CHOICE,
log 22). -/
def hostKeyRead (handle : Nat) (s : State) : State :=
  match s.ks[handle]? with
  | some k => s.withReply (.key k.readable)
  | none => s.withReply .refused

/-- The move of the host that reads a key record: like every host operation, legal only while LOCK = 0 (R340, R346). -/
def keyReadMove (handle : Nat) (s : State) : Host.Outcome State Fault Refusal := hostOp (hostKeyRead handle) s

/-! ### H.STAT_READ, H.RESET -/

/-- H.STAT_READ (R352). That a name which is none of R32's counters is refused is the model's choice (DESIGN CHOICE, log 23). -/
def hostStatRead (name : Nat) (s : State) : State :=
  match counterOfNat name with
  | some c => s.withReply (.value (s.stat.get c))
  | none => s.withReply .refused

/-- H.RESET (R354): every piece of state takes its reset value; the parameters and the world outside stay. -/
def hostReset (s : State) : State := (State.resetWith s.ks.length s.st.length s.par s.env).withReply .done

/-- H.FRAME_IN. -/
def execHFrameIn (bytes : List Byte) (wlen : Nat) (info : Meta) (s : State) : Host.Outcome State Fault Refusal :=
  hostOp (hostFrameIn bytes wlen info) s
/-- H.CFG_WRITE. -/
def execHCfgWrite (reg value : Nat) (s : State) : Host.Outcome State Fault Refusal := hostOp (hostCfgWrite reg value) s
/-- H.KEY_SET. -/
def execHKeySet (scope : Nat) (addr : Addr) (kidx suite : Nat) (material : List Byte) (tscLo tscHi : Nat) (s : State) :
    Host.Outcome State Fault Refusal := hostOp (hostKeySet scope addr kidx suite material tscLo tscHi) s
/-- H.KEY_DEL. -/
def execHKeyDel (scope : Nat) (addr : Addr) (kidx : Nat) (s : State) : Host.Outcome State Fault Refusal :=
  hostOp (hostKeyDel scope addr kidx) s
/-- H.STA_SET. -/
def execHStaSet (i : Nat) (addr : Addr) (assoc : Nat) (s : State) : Host.Outcome State Fault Refusal :=
  hostOp (hostStaSet i addr assoc) s
/-- H.STA_DEL. -/
def execHStaDel (i : Nat) (s : State) : Host.Outcome State Fault Refusal := hostOp (hostStaDel i) s
/-- H.PS_POP. -/
def execHPsPop (i : Nat) (s : State) : Host.Outcome State Fault Refusal := hostOp (hostPsPop i) s
/-- H.STA0_PS_CLEAR. -/
def execHSta0PsClear (s : State) : Host.Outcome State Fault Refusal := hostOp hostSta0PsClear s
/-- H.STAT_READ. -/
def execHStatRead (name : Nat) (s : State) : Host.Outcome State Fault Refusal := hostOp (hostStatRead name) s
/-- H.RESET: legal also while LOCK = 1 (R354). -/
def execHReset (s : State) : Host.Outcome State Fault Refusal := .next (hostReset s)

end Sys2Proof.Machine
end

