-- ==== Sys2Proof/Machine/Reassembly.lean ====
section
/-! DEFINITION. The fragment hand-off (spec 44_defrag.md). -/
namespace Sys2Proof.Machine

/-- What DEFRAG does with the reassembler's answer (R266, R269, R270, R271). -/
def takeAnswer (a : Answer) : Act Unit :=
  match a with
  | .complete b => do
    replaceFrame b
    setStage .defragmented
  | .incomplete => do
    emit .replenish
    raise .reassemblyIncomplete

/-- DEFRAG (R266, R267). -/
def opDefrag : Act Unit := do
  let isMcast ← readCtx .isMcast Ctx.isMcast
  require (!isMcast) .malformedMcastFragment
  let f ← theFrame
  let a ← submitFrame f
  takeAnswer a

/-- DEFRAG. -/
def execDefrag (s : State) : Host.Outcome State Fault Refusal := finish opDefrag s

end Sys2Proof.Machine
end

