-- ==== Sys2Proof/Machine/Replay.lean ====
section
/-! DEFINITION. The replay checker (spec 43_replay.md). -/
namespace Sys2Proof.Machine

/-- The reason of a replay under a suite (R255). -/
def replayReason (s : Suite) : Option Reason :=
  match s with
  | .tkip => some .replayTkip
  | .ccmp => some .replayCcmp
  | .noSuite | .wep => none

/-- `raise ReplayDetected(CTX.SUITE)` (R255). -/
def replayDetected : Act Unit := do
  let suite ← readCtx .suite Ctx.suite
  let r ← demand .replaySuite (replayReason suite)
  raise r

/-- The candidate is accepted: strictly greater, or the wrap exception (R252, R253). -/
def tscAccepted (nh oh : BitVec 32) (nl ol : BitVec 16) : Bool := tscGreater nh oh nl ol || tscWrap nh oh

/-- The acceptance of RPLCHK: the stored value becomes the candidate (R254). -/
def acceptTsc (h : Nat) (nl : BitVec 16) (nh : BitVec 32) : Act Unit := do
  updateReplay h nl nh
  setStage .replayChecked

/-- RPLCHK (R252). -/
def opRplchk : Act Unit := do
  let nh ← readCtx .tscHi Ctx.tscHi
  let nl ← readCtx .tscLo Ctx.tscLo
  let h ← readCtx .key Ctx.key
  let k ← keyAt h
  if tscAccepted nh k.tscHi nl k.tscLo then acceptTsc h nl nh else replayDetected

/-- RPLCHK. -/
def execRplchk (s : State) : Host.Outcome State Fault Refusal := finish opRplchk s

end Sys2Proof.Machine
end

