-- ==== Sys2Proof/Machine/Terminal.lean ====
section
/-! DEFINITION. The terminal operations (spec 46_pipeline.md R316, R324, R326). -/
namespace Sys2Proof.Machine

/-- The end of a pass that is not dropped: FRM holds no frame, STAGE is `Delivered`, LOCK is free (R316, R324, R328). -/
def endDelivered : Act Unit := do
  setFrame none
  setStage .delivered
  unlock

/-- MGMT_DISPATCH (R316): the frame as received leaves. -/
def opMgmtDispatch : Act Unit := do
  let f ← theFrame
  emit (.mgmtDispatch f.packet)
  endDelivered

/-- `if CFG.AP_MODE = 0: CTX.ROUTE <- LOCAL ; to_stack <- 1` (R324). -/
def stationRoute (apMode : Bool) : Act Unit :=
  if apMode then pure () else writeCtx fun c => { c with route := some .toStack, toStack := some true }

/-- The frame that DELIVER hands out: none when it has been moved into a queue (R324). -/
def outgoing (r : Route) : Act (Option Packet) :=
  match r with
  | .queuedSta _ => pure none
  | .toStack | .relayFlood | .relayUcast _ | .queuedMcast => do
    let f ← theFrame
    pure (some f.packet)

/-- DELIVER (R324). -/
def opDeliver : Act Unit := do
  let cfg ← look State.cfg
  stationRoute cfg.apMode
  let r ← readCtx .route Ctx.route
  let b ← readCtx .toStack Ctx.toStack
  let f ← outgoing r
  emit (.deliver f r b)
  endDelivered

/-- DROP of a reason: the drop path (R326, R385). -/
def opDrop (r : Reason) : Act Unit := raise r

/-- MGMT_DISPATCH. -/
def execMgmtDispatch (s : State) : Host.Outcome State Fault Refusal := finish opMgmtDispatch s
/-- DELIVER. -/
def execDeliver (s : State) : Host.Outcome State Fault Refusal := finish opDeliver s
/-- DROP. -/
def execDrop (reason : Reason) (s : State) : Host.Outcome State Fault Refusal := finish (opDrop reason) s

end Sys2Proof.Machine
end

