-- ==== Sys2Proof/Machine/Translator.lean ====
section
/-! DEFINITION. The header translator (spec 45_header_translate.md). -/
namespace Sys2Proof.Machine

/-- `(CTX.DA, CTX.SA) <-` the address fields at two offsets (R282). -/
def setAddresses (da sa : Nat) : Act Unit := do
  let d ← readAddr da
  let a ← readAddr sa
  writeCtx fun c => { c with da := some d, sa := some a }

/-- XLT.IBSS: DA = Addr1, SA = Addr2 (R282). -/
def opXltIbss : Act Unit := setAddresses offAddr1 offAddr2

/-- XLT.FROMAP: DA = Addr1, SA = Addr3 (R282). -/
def opXltFromap : Act Unit := setAddresses offAddr1 offAddr3

/-- XLT.TOAP: DA = Addr3, SA = Addr2 (R282). -/
def opXltToap : Act Unit := setAddresses offAddr3 offAddr2

/-- XLT.WDS: DA = Addr3, SA = Addr4 (R282). -/
def opXltWds : Act Unit := setAddresses offAddr3 offAddr4

/-- The row of the `xlt-addr` group. -/
def runXltAddr (r : XltAddrRow) : Act Unit :=
  match r with
  | .ibss => opXltIbss
  | .fromap => opXltFromap
  | .toap => opXltToap
  | .wds => opXltWds

/-- Step 4: the address pair over the bytes before the type or length, and the head moved to it (R296). -/
def writeEthernet (nh : Nat) : Act Unit := do
  let da ← readCtx .da Ctx.da
  let sa ← readCtx .sa Ctx.sa
  memWrite nh da.toList
  memWrite (nh + 6) sa.toList
  advanceHead nh

/-- The frame of R292 and R294: a length field of the payload's size before the whole payload. -/
def lengthFraming (p : Nat) : Act Unit := do
  let l ← frmLen
  memWrite (p - 14 + 12) (bytesBe16 (BitVec.ofNat 16 (l - p)))
  writeEthernet (p - 14)

/-- XLT.PASS for a payload at `p`: the six prefix bytes go, the embedded type stays (R290). -/
def xltPassAt (p : Nat) : Act Unit := writeEthernet (p - 6)

/-- XLT.LEN for a payload at `p` (R292). -/
def xltLenAt (p : Nat) : Act Unit := lengthFraming p

/-- XLT.RAW for a payload at `p` (R294). -/
def xltRawAt (p : Nat) : Act Unit := lengthFraming p

/-- The row of the `xlt-snap` group. -/
def runSnap (r : SnapRow) (p : Nat) : Act Unit :=
  match r with
  | .len => xltLenAt p
  | .pass => xltPassAt p
  | .raw => xltRawAt p

/-- XLT.PASS. -/
def opXltPass : Act Unit := do
  let p ← payloadOffset
  xltPassAt p

/-- XLT.LEN. -/
def opXltLen : Act Unit := do
  let p ← payloadOffset
  xltLenAt p

/-- XLT.RAW. -/
def opXltRaw : Act Unit := do
  let p ← payloadOffset
  xltRawAt p

/-- HDRXLT (R296): everything it needs is read again from the frame it is given (R300), the addresses before any byte is
written (R299). -/
def opHdrxlt : Act Unit := do
  let l ← frmLen
  let fc ← readFc
  let h := headerLength fc
  require (h ≤ l) .malformedTruncated
  runXltAddr (xltAddrRow fc)
  let ivLen ← readIvLen fc h
  let p := h + ivLen
  require (p + 8 ≤ l) .malformedTruncated
  let b ← memRead p 8
  let par ← look State.par
  runSnap (snapRow par.sttType2 (be64 b)) p
  setStage .headerTranslated

/-- HDRXLT. -/
def execHdrxlt (s : State) : Host.Outcome State Fault Refusal := finish opHdrxlt s
/-- XLT.IBSS. -/
def execXltIbss (s : State) : Host.Outcome State Fault Refusal := finish opXltIbss s
/-- XLT.FROMAP. -/
def execXltFromap (s : State) : Host.Outcome State Fault Refusal := finish opXltFromap s
/-- XLT.TOAP. -/
def execXltToap (s : State) : Host.Outcome State Fault Refusal := finish opXltToap s
/-- XLT.WDS. -/
def execXltWds (s : State) : Host.Outcome State Fault Refusal := finish opXltWds s
/-- XLT.LEN. -/
def execXltLen (s : State) : Host.Outcome State Fault Refusal := finish opXltLen s
/-- XLT.PASS. -/
def execXltPass (s : State) : Host.Outcome State Fault Refusal := finish opXltPass s
/-- XLT.RAW. -/
def execXltRaw (s : State) : Host.Outcome State Fault Refusal := finish opXltRaw s

end Sys2Proof.Machine
end

