-- ==== Sys2Proof/Machine/Dispatch.lean ====
section
/-! DEFINITION. One arm per instruction, each one direct call of its meaning. -/
namespace Sys2Proof.Machine

/-- The meaning of an instruction. -/
def exec (i : Instr) (s : State) : Host.Outcome State Fault Refusal :=
  match i with
  | .lenchk => Sys2Proof.Machine.execLenchk s
  | .classify => Sys2Proof.Machine.execClassify s
  | .clsMgmt => Sys2Proof.Machine.execClsMgmt s
  | .clsCtrl => Sys2Proof.Machine.execClsCtrl s
  | .clsData => Sys2Proof.Machine.execClsData s
  | .clsRsvd => Sys2Proof.Machine.execClsRsvd s
  | .clsPspoll => Sys2Proof.Machine.execClsPspoll s
  | .hdrA4 => Sys2Proof.Machine.execHdrA4 s
  | .hdrA3 => Sys2Proof.Machine.execHdrA3 s
  | .apctl => Sys2Proof.Machine.execApctl s
  | .apctlDeauth => Sys2Proof.Machine.execApctlDeauth s
  | .apctlDisassoc => Sys2Proof.Machine.execApctlDisassoc s
  | .apctlPspoll => Sys2Proof.Machine.execApctlPspoll s
  | .apctlPswake => Sys2Proof.Machine.execApctlPswake s
  | .apctlPsset => Sys2Proof.Machine.execApctlPsset s
  | .apctlPsnop => Sys2Proof.Machine.execApctlPsnop s
  | .route => Sys2Proof.Machine.execRoute s
  | .routeNosta => Sys2Proof.Machine.execRouteNosta s
  | .routeMcq => Sys2Proof.Machine.execRouteMcq s
  | .routeFlood => Sys2Proof.Machine.execRouteFlood s
  | .routeUcq => Sys2Proof.Machine.execRouteUcq s
  | .routeUcrelay => Sys2Proof.Machine.execRouteUcrelay s
  | .routeLocal => Sys2Proof.Machine.execRouteLocal s
  | .psqPush entry => Sys2Proof.Machine.execPsqPush entry s
  | .ivparse => Sys2Proof.Machine.execIvparse s
  | .keysel => Sys2Proof.Machine.execKeysel s
  | .keyselPw => Sys2Proof.Machine.execKeyselPw s
  | .keyselGrp => Sys2Proof.Machine.execKeyselGrp s
  | .keyselBcast => Sys2Proof.Machine.execKeyselBcast s
  | .cipherchk => Sys2Proof.Machine.execCipherchk s
  | .decNone => Sys2Proof.Machine.execDecNone s
  | .decWep => Sys2Proof.Machine.execDecWep s
  | .decTkip => Sys2Proof.Machine.execDecTkip s
  | .decCcmp => Sys2Proof.Machine.execDecCcmp s
  | .strip => Sys2Proof.Machine.execStrip s
  | .rplchk => Sys2Proof.Machine.execRplchk s
  | .defrag => Sys2Proof.Machine.execDefrag s
  | .hdrxlt => Sys2Proof.Machine.execHdrxlt s
  | .xltIbss => Sys2Proof.Machine.execXltIbss s
  | .xltFromap => Sys2Proof.Machine.execXltFromap s
  | .xltToap => Sys2Proof.Machine.execXltToap s
  | .xltWds => Sys2Proof.Machine.execXltWds s
  | .xltLen => Sys2Proof.Machine.execXltLen s
  | .xltPass => Sys2Proof.Machine.execXltPass s
  | .xltRaw => Sys2Proof.Machine.execXltRaw s
  | .mgmtDispatch => Sys2Proof.Machine.execMgmtDispatch s
  | .deliver => Sys2Proof.Machine.execDeliver s
  | .drop reason => Sys2Proof.Machine.execDrop reason s
  | .hFrameIn bytes wlen info => Sys2Proof.Machine.execHFrameIn bytes wlen info s
  | .hCfgWrite reg value => Sys2Proof.Machine.execHCfgWrite reg value s
  | .hKeySet scope addr kidx suite material tscLo tscHi => Sys2Proof.Machine.execHKeySet scope addr kidx suite material tscLo tscHi s
  | .hKeyDel scope addr kidx => Sys2Proof.Machine.execHKeyDel scope addr kidx s
  | .hStaSet sta addr assoc => Sys2Proof.Machine.execHStaSet sta addr assoc s
  | .hStaDel sta => Sys2Proof.Machine.execHStaDel sta s
  | .hPsPop sta => Sys2Proof.Machine.execHPsPop sta s
  | .hSta0PsClear => Sys2Proof.Machine.execHSta0PsClear s
  | .hStatRead name => Sys2Proof.Machine.execHStatRead name s
  | .hReset => Sys2Proof.Machine.execHReset s

end Sys2Proof.Machine
end

