-- ==== Sys2Proof/Machine/Sequencer.lean ====
section
/-! DEFINITION. The ReceivePipeline's control unit (spec 46_pipeline.md R312, R313): which operation the block performs next.
The position inside DECRYPT (IVPARSE ; KEYSEL ; CIPHERCHK ; DEC.suite ; STRIP, R120) is read off the context registers those
operations write (R24, R25; log 12). -/
namespace Sys2Proof.Machine

/-- What the sequencer does in a state. -/
inductive Issue where
  /-- no pass is in progress: the block waits for the host (R411) -/
  | wait
  /-- the operation to decode and run -/
  | code (c : Code)
  /-- no line of R312 applies, or a register it tests holds no value -/
  | stuck (f : Fault)
deriving DecidableEq, Repr

/-- The condition of line 7: `dec` and CTX.SUITE in {TKIP, CCMP} (R251, R312). CTX.SUITE is read only where `dec` holds, and
there it must have been written: none where it holds no value (R25). -/
def replayDue (c : Ctx) : Option Bool :=
  if c.dec then c.suite.map fun su => su == .tkip || su == .ccmp else some false

/-- Line 8: HDRXLT for a data frame. -/
def issueTranslate (c : Ctx) : Issue :=
  match c.tag with
  | none => .stuck (.ctxUnwritten .tag)
  | some .data => .code (.seq .hdrxlt)
  | some .mgmt | some .ctrl => .stuck .noSuccessor

/-- Lines 7 and 8. -/
def issueReplay (c : Ctx) : Issue :=
  match replayDue c with
  | none => .stuck (.ctxUnwritten .suite)
  | some true => .code (.seq .rplchk)
  | some false => issueTranslate c

/-- Line 6 for a data frame, and what follows it when the frame is no fragment: lines 7 and 8 after DECRYPT, line 8 alone
before it (R312: line 7 needs `Decrypted` or `Defragmented`). -/
def issueDefrag (c : Ctx) (otherwise : Issue) : Issue :=
  match c.isFrag with
  | none => .stuck (.ctxUnwritten .isFrag)
  | some true => .code (.seq .defrag)
  | some false => otherwise

/-- The next operation of DECRYPT (R120, R216). -/
def issueDecrypt (c : Ctx) : Issue :=
  match c.iv, c.key, c.suite, c.decryptOk with
  | none, _, _, _ => .code (.seq .ivparse)
  | some _, none, _, _ => .code (.seq .keysel)
  | some _, some _, none, _ => .code (.seq .cipherchk)
  | some _, some _, some su, none => .code (.suite2 su.code)
  | some _, some _, some _, some _ => .code (.seq .strip)

/-- Lines 5 to 8, for a data frame that is not decrypted yet. -/
def issueData (c : Ctx) : Issue :=
  match c.isWep with
  | none => .stuck (.ctxUnwritten .isWep)
  | some true => issueDecrypt c
  | some false => issueDefrag c (issueTranslate c)

/-- Lines 4 to 8. -/
def issueAfterFilter (c : Ctx) : Issue :=
  match c.tag with
  | none => .stuck (.ctxUnwritten .tag)
  | some .mgmt | some .ctrl => .code (.seq .mgmtDispatch)
  | some .data => issueData c

/-- Lines 3 to 8. -/
def issueClassified (apMode : Bool) (c : Ctx) : Issue :=
  match c.tag with
  | none => .stuck (.ctxUnwritten .tag)
  | some .mgmt => issueAfterFilter c
  | some .ctrl | some .data => if apMode then .code (.seq .apctl) else issueAfterFilter c

/-- Lines 6, 7 and 8 after DECRYPT. -/
def issueDecrypted (c : Ctx) : Issue :=
  match c.tag with
  | none => .stuck (.ctxUnwritten .tag)
  | some .data => issueDefrag c (issueReplay c)
  | some .mgmt | some .ctrl => issueReplay c

/-- Line 9: ROUTE in access-point mode, then DELIVER. -/
def issueDelivery (apMode : Bool) (c : Ctx) : Issue :=
  if apMode && c.route.isNone then .code (.seq .route) else .code (.seq .deliver)

/-- The successor function (R312). -/
def issue (s : State) : Issue :=
  match s.stage with
  | .idle | .delivered | .dropped => .wait
  | .raw => .code (.seq .lenchk)
  | .lengthValidated => .code (.seq .classify)
  | .classified => issueClassified s.cfg.apMode s.ctx
  | .apFiltered => issueAfterFilter s.ctx
  | .decrypted => issueDecrypted s.ctx
  | .defragmented => issueReplay s.ctx
  | .replayChecked => issueTranslate s.ctx
  | .headerTranslated => issueDelivery s.cfg.apMode s.ctx

/-! ### The host's schedule (log 7) -/

/-- The state without the first move of the host's schedule. -/
def State.popMove (s : State) : State := { s with env := { s.env with port := s.env.port.drop 1 } }

/-! ### Placing one table word where the next step decodes it (log 4) -/

/-- A context in which the sequencer translates a data frame (line 8). -/
def translateCtx : Ctx := { Ctx.empty with tag := some .data }

/-- A frame of zero bytes but for the frame-control word and the payload at offset `off`. -/
def wordFrame (fc : BitVec 16) (off : Nat) (payload : List Byte) : Frame :=
  Frame.submit ([fc.extractLsb' 0 8, fc.extractLsb' 8 8] ++ List.replicate (off - 2) 0 ++ payload ++ List.replicate 64 0)
    ⟨0, 0, 0, false, false, false, 0⟩

/-- A pass about to classify a frame. -/
def classifyNext (s : State) (f : Frame) : State :=
  { s with stage := .lengthValidated, lock := true, frm := some f, ctx := Ctx.empty }

/-- A pass about to translate a frame. -/
def translateNext (s : State) (f : Frame) : State :=
  { s with stage := .replayChecked, lock := true, frm := some f, ctx := translateCtx }

/-- The state in which the next step decodes a coded table word: a host command at the port; a frame-control word in a frame
about to be classified or translated; a SNAP8 word at the payload start of a frame about to be translated. -/
def placeCode (s : State) (c : Code) : State :=
  match c with
  | .hostcmd bytes => { s with env := { s.env with port := [.command bytes] } }
  | .fc16 .type fc => classifyNext s (wordFrame fc 24 [])
  | .fc16 .pspoll fc => classifyNext s (wordFrame fc 24 [])
  | .fc16 .hdrlen fc => classifyNext s (wordFrame fc 24 [])
  | .fc16 .xltAddr fc => translateNext s (wordFrame fc 24 [])
  | .snap8 _ w =>
      translateNext s (wordFrame 0x0008 24
        [w.extractLsb' 56 8, w.extractLsb' 48 8, w.extractLsb' 40 8, w.extractLsb' 32 8, w.extractLsb' 24 8,
          w.extractLsb' 16 8, w.extractLsb' 8 8, w.extractLsb' 0 8])
  | .seq _ | .sta3 _ | .psw3 _ | .ksel1 _ | .suite2 _ | .rte _ => s

end Sys2Proof.Machine
end

