-- ==== Sys2Proof/Machine/Step.lean ====
section
/-! DEFINITION. One step of the device: one move of the host when its schedule presents a transaction, else one operation of
the pass in progress, else a wait (R84, R311, R312, R340, R411; log 7). -/
namespace Sys2Proof.Machine

/-- One move of the pipeline: the sequencer's operation is decoded and run; with no pass in progress the block waits. -/
def pipeMove (s : State) : Host.Outcome State Fault Refusal :=
  match issue s with
  | .wait => .next s
  | .stuck f => .fault f
  | .code c =>
    match decode c with
    | .ok i => exec i s
    | .error e => .fault (.undecodable e)

/-- One transaction of the host: decoded and run. A code that names no command is refused with no effect (R122). That a
transaction without a code byte, or with operand bytes missing or in excess or a reserved metadata bit set, is refused the same
way is the model's choice (DESIGN CHOICE, log 3): the spec speaks of no such transaction. -/
def hostMove (bytes : List Byte) (s : State) : Host.Outcome State Fault Refusal :=
  match decode (.hostcmd bytes) with
  | .ok i => exec i s
  | .error _ => .next (s.withReply .refused)

/-- One step. The host's reading of a key record has no command code and stands in the schedule as a move of its own (log 22). -/
def step (s : State) : Host.Outcome State Fault Refusal :=
  match s.env.port with
  | .command bytes :: _ => hostMove bytes s.popMove
  | .readKey handle :: _ => keyReadMove handle s.popMove
  | .yield :: _ => pipeMove s.popMove
  | [] => pipeMove s

/-- The state in which the next step decodes the instruction of a table word (log 4). -/
def State.withFetchWord (s : State) (nbits w : Nat) : State :=
  match tableCode nbits w with
  | some c => placeCode s c
  | none => s

end Sys2Proof.Machine
end

