-- ==== Sys2Proof/Safety.lean ====
section
/-! DEFINITION. What the statements about runs are written with: the invariant of the device, the measure of a pass, and the
classes of operations and events. -/
namespace Sys2Proof.Machine

/-! ### Classes of operations and events -/

/-- The host operations (R122, R340). -/
def isHostOperation (i : Instr) : Bool :=
  match i with
  | .hFrameIn _ _ _ | .hCfgWrite _ _ | .hKeySet _ _ _ _ _ _ _ | .hKeyDel _ _ _ | .hStaSet _ _ _ | .hStaDel _ | .hPsPop _
  | .hSta0PsClear | .hStatRead _ | .hReset => true
  | .lenchk | .classify | .clsMgmt | .clsCtrl | .clsData | .clsRsvd | .clsPspoll | .hdrA4 | .hdrA3
  | .apctl | .apctlDeauth | .apctlDisassoc | .apctlPspoll | .apctlPswake | .apctlPsset | .apctlPsnop
  | .route | .routeNosta | .routeMcq | .routeFlood | .routeUcq | .routeUcrelay | .routeLocal | .psqPush _
  | .ivparse | .keysel | .keyselPw | .keyselGrp | .keyselBcast | .cipherchk
  | .decNone | .decWep | .decTkip | .decCcmp | .strip | .rplchk | .defrag
  | .hdrxlt | .xltIbss | .xltFromap | .xltToap | .xltWds | .xltLen | .xltPass | .xltRaw
  | .mgmtDispatch | .deliver | .drop _ => false

/-- The operations of the decryption dispatcher (R120, R200). -/
def isDispatcherOperation (i : Instr) : Prop :=
  i = .ivparse ∨ i = .keysel ∨ i = .keyselPw ∨ i = .keyselGrp ∨ i = .keyselBcast ∨ i = .cipherchk ∨ i = .decNone
    ∨ i = .decWep ∨ i = .decTkip ∨ i = .decCcmp ∨ i = .strip

/-- The events that end a pass (R330). -/
def Event.ends (e : Event) : Bool :=
  match e with
  | .deliver _ _ _ | .mgmtDispatch _ | .drop _ => true
  | .actionDeauth _ _ | .actionDisassoc _ _ | .psDeliverOne _ | .psFlush _ _ | .replenish => false

/-- No transaction and no reading of the host is due at this step: the move is the pipeline's (log 7). -/
def hostSilent (s : State) : Bool :=
  match s.env.port with
  | .command _ :: _ | .readKey _ :: _ => false
  | .yield :: _ | [] => true

/-! ### The 48-bit sequence value (R34, R39, R252) -/

/-- `(TSC_HI << 16) | TSC_LO` as a number. -/
def tsc48 (hi : BitVec 32) (lo : BitVec 16) : Nat := hi.toNat * 65536 + lo.toNat

/-- The record `now` differs from the earlier record `before` in nothing but an advanced sequence value: a greater one, or one
stored by the wrap exception (R38, R253, R258). Written `now.advancedFrom before`. -/
def KeyRec.advancedFrom (now before : KeyRec) : Prop :=
  now = before ∨
    ((tsc48 before.tscHi before.tscLo < tsc48 now.tscHi now.tscLo ∨ (before.tscHi = 0xFFFFFFFF ∧ now.tscHi = 0))
      ∧ now = { before with tscLo := now.tscLo, tscHi := now.tscHi })

/-! ### The registers of two runs -/

/-- Two runs `s` to `t` and `s'` to `t'` do the same to a register: both leave the same value in it, or both keep it. -/
def sameOrKept {α : Type} (r : Ctx → Option α) (s t s' t' : Ctx) : Prop :=
  r t' = r t ∨ (r t = r s ∧ r t' = r s')

/-! ### The invariant of the device -/

/-- Two records would answer one lookup (R37). -/
def sameKey (a b : KeyRec) : Bool :=
  a.scope == b.scope && a.addr == b.addr && (a.scope == .pairwise || a.kidx == b.kidx)

/-- At most one valid record answers any lookup (R37). -/
abbrev keysUnique (ks : List KeyRec) : Prop :=
  ks.Pairwise fun a b => ¬ (a.valid = true ∧ b.valid = true ∧ sameKey a b = true)

/-- Key material has 1 to MAX_KEY_LEN bytes (R34). -/
abbrev keyLengths (ks : List KeyRec) : Prop :=
  ∀ k ∈ ks, k.valid = true → 1 ≤ k.material.length ∧ k.material.length ≤ Config.maxKeyLen

/-- At most one valid entry per address (R43). -/
abbrev stationsUnique (st : List StaEntry) : Prop :=
  st.Pairwise fun a b => ¬ (a.valid = true ∧ b.valid = true ∧ a.addr = b.addr)

/-- Entry 0 is the virtual station (R42). -/
abbrev virtualStation (st : List StaEntry) : Prop :=
  st.head?.map (fun e => (e.valid, e.addr)) = some (true, Addr.broadcast)

/-- No queue is longer than PSQ_CAP, and an invalid entry holds no frame (R44, R52). -/
abbrev queuesBounded (cap : Nat) (st : List StaEntry) : Prop :=
  ∀ e ∈ st, e.q.length ≤ cap ∧ (e.valid = false → e.q = [])

/-- LOCK is held exactly while a pass is in progress, and between passes FRM holds no frame (R86, R328). -/
abbrev lockDiscipline (s : State) : Prop :=
  s.lock = !s.stage.quiet ∧ (s.stage.quiet = true → s.frm = none)

/-- Registers that hold a value whenever others do, in every stage of a pass (R24, R25). -/
abbrev ctxChained (s : State) : Prop :=
  (s.ctx.iv.isSome → s.ctx.kidx.isSome ∧ s.ctx.extIv.isSome)
    ∧ (∀ h ∈ s.ctx.key, h < s.ks.length ∧ s.ctx.usePw.isSome)
    ∧ ((s.ctx.dec = true ∨ s.ctx.decryptOk.isSome) → s.ctx.key.isSome ∧ s.ctx.suite.isSome
        ∧ (s.ctx.suite = some .tkip ∨ s.ctx.suite = some .ccmp → s.ctx.tscLo.isSome ∧ s.ctx.tscHi.isSome))
    ∧ (s.ctx.route.isSome → s.ctx.toStack.isSome)

/-- The registers that CLASSIFY leaves written, and a frame to work on (R143). -/
abbrev ctxClassified (s : State) : Prop :=
  s.frm.isSome ∧ s.ctx.fc.isSome ∧ s.ctx.tag.isSome ∧ s.ctx.isWep.isSome ∧ s.ctx.isFrag.isSome ∧ s.ctx.isMcast.isSome
    ∧ s.ctx.isPspoll.isSome ∧ s.ctx.hdrlen.isSome ∧ (s.ctx.tag = some .data → s.ctx.ta.isSome)

/-- The destination queue holds the frame of this pass: ROUTE.UCQ moved it there (R182). -/
def movedToQueue (s : State) : Bool :=
  match s.ctx.route with
  | some (.queuedSta _) => true
  | some .toStack | some .relayFlood | some (.relayUcast _) | some .queuedMcast | none => false

/-- Every register that the pass can read from here on has been written (R25). -/
abbrev ctxReady (s : State) : Prop :=
  match s.stage with
  | .idle | .delivered | .dropped => True
  | .raw => s.frm.isSome ∧ s.ctx = { Ctx.empty with wlen := s.ctx.wlen } ∧ s.ctx.wlen.isSome
  | .lengthValidated => s.frm.isSome ∧ s.ctx = { Ctx.empty with wlen := s.ctx.wlen }
  | .classified | .apFiltered => ctxClassified s ∧ ctxChained s ∧ s.ctx.route = none
  | .decrypted | .defragmented | .replayChecked =>
      ctxClassified s ∧ ctxChained s ∧ s.ctx.route = none ∧ s.ctx.tag = some .data
  | .headerTranslated =>
      s.ctx.da.isSome ∧ ctxChained s ∧ (movedToQueue s = true ∨ s.frm.isSome)
        ∧ (s.ctx.route.isSome → s.cfg.apMode = true)

/-- The invariant of the device: every step keeps it. -/
abbrev Inv (s : State) : Prop :=
  Memory.wf s.frm = true ∧ lockDiscipline s ∧ virtualStation s.st ∧ stationsUnique s.st ∧ queuesBounded s.par.psqCap s.st
    ∧ keysUnique s.ks ∧ keyLengths s.ks ∧ ctxReady s

/-- In access-point mode, once APCTL has run, the transmitter of the pass's frame is an Associated station (R45, R165). -/
abbrev transmitterAssociated (s : State) : Prop :=
  match s.stage with
  | .idle | .raw | .lengthValidated | .classified | .delivered | .dropped => True
  | .apFiltered | .decrypted | .defragmented | .replayChecked | .headerTranslated =>
      s.cfg.apMode = true →
        ∃ a i e, s.ctx.ta = some a ∧ stLookup s.st a = some i ∧ s.st[i]? = some e ∧ e.assoc = .associated

/-! ### The measure of a pass (R311, R435) -/

/-- Operations of DECRYPT that are still to run. -/
def decryptLeft (c : Ctx) : Nat :=
  match c.iv, c.key, c.suite, c.decryptOk with
  | none, _, _, _ => 5
  | some _, none, _, _ => 4
  | some _, some _, none, _ => 3
  | some _, some _, some _, none => 2
  | some _, some _, some _, some _ => 1

/-- A bound on the operations of the pass that are still to run: 13 at `Raw`, 0 between passes. -/
def passLeft (s : State) : Nat :=
  match s.stage with
  | .idle | .delivered | .dropped => 0
  | .raw => 13
  | .lengthValidated => 12
  | .classified => 6 + decryptLeft s.ctx
  | .apFiltered => 5 + decryptLeft s.ctx
  | .decrypted => 5
  | .defragmented => 4
  | .replayChecked => 3
  | .headerTranslated => if s.ctx.route.isNone then 2 else 1

end Sys2Proof.Machine
end

