-- ==== Sys2Proof/Certificates/Slice0/Obligations.lean ====
section
/-! DEFINITION. The statements for the provers. -/

open Sys2Proof Sys2Proof.Machine

/-! ### Encoding -/

/-- Decoding an encoded well-formed instruction gives it back, with every operand (R119, R121, R122). -/
def Obligations.DecodeEncodeAgree : Prop :=
  ∀ i : Instr, i.wellFormed = true → decode (encode i) = .ok i

/-- A few words written out from the spec's encodings decode to the instructions they stand for (R102, R121, R122, R143). -/
def Obligations.WrittenWordsDecode : Prop :=
  decode (.fc16 .type 0x4208) = .ok .clsData ∧ decode (.fc16 .hdrlen 0x4208) = .ok .hdrA3
    ∧ decode (.fc16 .xltAddr 0x4208) = .ok .xltFromap ∧ decode (.fc16 .pspoll 0x10A4) = .ok .clsPspoll
    ∧ decode (.sta3 0b101) = .ok .apctlDisassoc ∧ decode (.psw3 0b011) = .ok .apctlPsset
    ∧ decode (.ksel1 0b1) = .ok .keyselPw ∧ decode (.suite2 0b10) = .ok .decTkip
    ∧ decode (.snap8 0x80F3 0xAAAA030000000800) = .ok .xltPass ∧ decode (.hostcmd [0x0A]) = .ok .hReset
    ∧ decode (.hostcmd [0x0B]) = .error .unknownHostCode

/-- Which rows a frame-control word selects, in terms of the fields of R102 (R103, R110, R111, R117). -/
def Obligations.Fc16RowsByFields : Prop :=
  ∀ fc : BitVec 16,
    decode (.fc16 .type fc)
        = .ok (if fc.extractLsb' 2 2 = 0 then .clsMgmt else if fc.extractLsb' 2 2 = 1 then .clsCtrl
            else if fc.extractLsb' 2 2 = 2 then .clsData else .clsRsvd)
      ∧ decode (.fc16 .pspoll fc)
        = (if fc.extractLsb' 2 2 = 1 ∧ fc.extractLsb' 4 4 = 0b1010 then .ok .clsPspoll else .error .notPspoll)
      ∧ decode (.fc16 .hdrlen fc) = .ok (if fc.getLsbD 8 = true ∧ fc.getLsbD 9 = true then .hdrA4 else .hdrA3)
      ∧ decode (.fc16 .xltAddr fc)
        = .ok (match fc.getLsbD 8, fc.getLsbD 9 with
            | false, false => .xltIbss
            | false, true => .xltFromap
            | true, false => .xltToap
            | true, true => .xltWds)

/-- Which row a SNAP8 word selects, for every value of STT_TYPE2 (R112, R288). -/
def Obligations.Snap8RowsByFields : Prop :=
  ∀ (stt : BitVec 16) (w : BitVec 64),
    decode (.snap8 stt w)
      = .ok (if w.extractLsb' 16 48 = 0xAAAA03000000 then
            (if w.extractLsb' 0 16 = 0x8137 ∨ w.extractLsb' 0 16 = stt then .xltLen else .xltPass)
          else if w.extractLsb' 16 48 = 0xAAAA030000F8 then .xltLen
          else .xltRaw)

/-- A host command code outside 0x01 to 0x0A is refused with no effect (R122); the reply latch and the host's schedule are
the model's (logs 7, 8). -/
def Obligations.UnknownHostCodeRefused : Prop :=
  ∀ (s : State) (c : Byte) (ops : List Byte) (rest : List HostMove),
    s.env.port = .command (c :: ops) :: rest → (c.toNat < 1 ∨ 10 < c.toNat) →
      step s = .next { s with env := { s.env with port := rest, reply := some .refused } }

/-! ### The step and the sequencer -/

/-- A step runs the decoded instruction: the host's transaction when its schedule presents one, else the operation that the
sequencer issues; between passes with no transaction the block waits (R84, R311, R312, R411; log 7). -/
def Obligations.StepRunsDecoded : Prop :=
  (∀ (s : State) (bytes : List Byte) (rest : List HostMove) (i : Instr),
      s.env.port = .command bytes :: rest → decode (.hostcmd bytes) = .ok i → i.wellFormed = true →
        step s = exec i { s with env := { s.env with port := rest } })
    ∧ (∀ (s : State) (rest : List HostMove) (c : Code) (i : Instr),
      s.env.port = .yield :: rest → issue s = .code c → decode c = .ok i → i.wellFormed = true →
        step s = exec i { s with env := { s.env with port := rest } })
    ∧ (∀ (s : State) (c : Code) (i : Instr),
      s.env.port = [] → issue s = .code c → decode c = .ok i → i.wellFormed = true → step s = exec i s)
    ∧ (∀ s : State, s.env.port = [] → (s.stage = .idle ∨ s.stage = .delivered ∨ s.stage = .dropped) → step s = .next s)

/-- The successor function, line by line, DECRYPT in its five operations (R120, R312, R313); where line 7 reads CTX.SUITE and
nothing has written it, the model faults and takes no line (R25). -/
def Obligations.SequencerTable : Prop :=
  ∀ s : State, s.env.port = [] →
    let filtered := (s.stage = .classified ∧ (s.cfg.apMode = false ∨ s.ctx.tag = some .mgmt)) ∨ s.stage = .apFiltered
    let due := s.ctx.dec = true ∧ (s.ctx.suite = some .tkip ∨ s.ctx.suite = some .ccmp)
    let notDue := s.ctx.dec = false ∨ s.ctx.suite = some .noSuite ∨ s.ctx.suite = some .wep
    (s.stage = .raw → step s = exec .lenchk s)
      ∧ (s.stage = .lengthValidated → step s = exec .classify s)
      ∧ (s.stage = .classified → s.cfg.apMode = true → (s.ctx.tag = some .ctrl ∨ s.ctx.tag = some .data) →
          step s = exec .apctl s)
      ∧ (filtered → (s.ctx.tag = some .mgmt ∨ s.ctx.tag = some .ctrl) → step s = exec .mgmtDispatch s)
      ∧ (filtered → s.ctx.tag = some .data → s.ctx.isWep = some true →
          (s.ctx.iv = none → step s = exec .ivparse s)
            ∧ (s.ctx.iv ≠ none → s.ctx.key = none → step s = exec .keysel s)
            ∧ (s.ctx.iv ≠ none → s.ctx.key ≠ none → s.ctx.suite = none → step s = exec .cipherchk s)
            ∧ (s.ctx.iv ≠ none → s.ctx.key ≠ none → s.ctx.decryptOk = none →
                (s.ctx.suite = some .noSuite → step s = exec .decNone s)
                  ∧ (s.ctx.suite = some .wep → step s = exec .decWep s)
                  ∧ (s.ctx.suite = some .tkip → step s = exec .decTkip s)
                  ∧ (s.ctx.suite = some .ccmp → step s = exec .decCcmp s))
            ∧ (s.ctx.iv ≠ none → s.ctx.key ≠ none → s.ctx.suite ≠ none → s.ctx.decryptOk ≠ none → step s = exec .strip s))
      ∧ (((filtered ∧ s.ctx.isWep = some false) ∨ s.stage = .decrypted) → s.ctx.tag = some .data →
          s.ctx.isFrag = some true → step s = exec .defrag s)
      ∧ (((s.stage = .decrypted ∧ s.ctx.isFrag = some false) ∨ s.stage = .defragmented) → s.ctx.tag = some .data → due →
          step s = exec .rplchk s)
      ∧ (((s.stage = .decrypted ∧ s.ctx.isFrag = some false) ∨ s.stage = .defragmented) → s.ctx.tag = some .data →
          s.ctx.dec = true → s.ctx.suite = none → step s = .fault (.ctxUnwritten .suite))
      ∧ (((filtered ∧ s.ctx.isWep = some false ∧ s.ctx.isFrag = some false)
            ∨ (((s.stage = .decrypted ∧ s.ctx.isFrag = some false) ∨ s.stage = .defragmented) ∧ notDue)
            ∨ s.stage = .replayChecked) → s.ctx.tag = some .data → step s = exec .hdrxlt s)
      ∧ (s.stage = .headerTranslated → s.cfg.apMode = true → s.ctx.route = none → step s = exec .route s)
      ∧ (s.stage = .headerTranslated → (s.cfg.apMode = false ∨ s.ctx.route ≠ none) → step s = exec .deliver s)

/-! ### Reset -/

/-- Reset: the values of R52, for every number of keys and stations. -/
def Obligations.ResetValues : Prop :=
  (∀ (nKeys nSta : Nat) (p : Params) (e : Env), 1 ≤ nSta →
    let s := State.resetWith nKeys nSta p e
    s.stage.code = 0 ∧ s.ctx = Ctx.empty ∧ s.frm = none ∧ s.cfg.apMode = false ∧ s.cfg.akm.code = 0
      ∧ s.cfg.pairwiseSuite.code = 0 ∧ s.cfg.groupSuite.code = 0 ∧ s.cfg.bssid.toList = [0, 0, 0, 0, 0, 0]
      ∧ (∀ c : Counter, s.stat.get c = 0)
      ∧ s.ks.length = nKeys ∧ (∀ k ∈ s.ks, k.valid = false)
      ∧ s.st.length = nSta
      ∧ (∃ e0, s.st[0]? = some e0 ∧ e0.valid = true ∧ e0.addr.toList = [0xFF, 0xFF, 0xFF, 0xFF, 0xFF, 0xFF] ∧ e0.ps = false
          ∧ e0.ready = false ∧ e0.q = [])
      ∧ (∀ x ∈ s.st.drop 1, x.valid = false ∧ x.q = [])
      ∧ s.lock = false ∧ s.out = [])
    ∧ ∃ nKeys nSta p e, 1 ≤ nSta ∧ State.reset = State.resetWith nKeys nSta p e

/-- The state after reset meets the invariant. -/
def Obligations.ResetMeetsInv : Prop := Inv State.reset

/-! ### Whole-machine statements -/

/-- Every step keeps the invariant: the frame memory in form, LOCK held exactly during a pass and FRM empty between passes,
entry 0 the virtual station, one valid entry per address, queues bounded, one record per key, key lengths bounded, and every
register that the pass can still read written (R25, R34, R37, R42, R43, R44, R86, R328). -/
def Obligations.StepKeepsInv : Prop :=
  ∀ s t : State, Inv s → step s = .next t → Inv t

/-- No step of a state that meets the invariant is stuck: nothing in the block is fatal (R25, R387). -/
def Obligations.StepNeverStuck : Prop :=
  ∀ s : State, Inv s → ∃ t, step s = .next t

/-- A pass ends without further input, after at most 13 operations from `Raw`, DECRYPT counted as its five (R311, R314,
R435). -/
def Obligations.PassRunsToCompletion : Prop :=
  ∀ s : State, Inv s → s.env.port = [] →
    ∃ (n : Nat) (t : State), n ≤ passLeft s ∧ n ≤ 13 ∧ Host.Core.run Sys2Proof.core n s = .next t
      ∧ t.stage.quiet = true ∧ t.lock = false

/-- In access-point mode the frame of a pass that has left APCTL comes from an Associated station, so no data frame of
another transmitter is decrypted, translated or delivered (R45, R165). -/
def Obligations.TransmitterStaysAssociated : Prop :=
  ∀ s t : State, Inv s → transmitterAssociated s → step s = .next t → transmitterAssociated t

/-- The last event of a pass is one of DELIVER, MGMT_DISPATCH and DROP, and no pass emits two of them; nothing already in OUT
changes (R50, R330). -/
def Obligations.OnePassOneOutcome : Prop :=
  ∀ s t : State, hostSilent s = true → s.stage.quiet = false → step s = .next t →
    ∃ es, t.out = s.out ++ es
      ∧ (t.stage.quiet = false → ∀ e ∈ es, e.ends = false)
      ∧ (t.stage.quiet = true → ∃ pre e, es = pre ++ [e] ∧ e.ends = true ∧ ∀ x ∈ pre, x.ends = false)

/-- A drop increments exactly its reason's counter, ReassemblyIncomplete none; a step that does not drop increments none,
but for the refused clone of ROUTE.MCQ (R33, R184, R371, R376). -/
def Obligations.OneCounterPerDrop : Prop :=
  ∀ s t : State, hostSilent s = true → s.stage.quiet = false → step s = .next t →
    (t.stage = .dropped →
      ∃ r, t.ctx.reason = some (reasonCode r) ∧ t.out.getLast? = some (.drop (reasonCode r))
        ∧ (∀ c, reasonCounter r = some c → t.stat = s.stat.bump c)
        ∧ (reasonCounter r = none → r = .reassemblyIncomplete ∧ t.stat = s.stat))
      ∧ (t.stage ≠ .dropped →
        t.stat = s.stat ∨ (t.stat = s.stat.bump .psqOverflow ∧ s.stage = .headerTranslated ∧ t.ctx.route = some .queuedMcast))

/-- What no frame can change: the configuration, the parameters, the fields of a key other than its sequence value, and VALID,
ADDR and STATE of a station (R38, R388). -/
def Obligations.PipelineWritesOnlyItsOwn : Prop :=
  ∀ s t : State, hostSilent s = true → step s = .next t →
    t.cfg = s.cfg ∧ t.par = s.par
      ∧ t.ks.map (fun k => (k.valid, k.scope, k.addr, k.kidx, k.suite, k.material))
        = s.ks.map (fun k => (k.valid, k.scope, k.addr, k.kidx, k.suite, k.material))
      ∧ t.st.map (fun e => (e.valid, e.addr, e.assoc)) = s.st.map (fun e => (e.valid, e.addr, e.assoc))

/-- Between host writes a stored sequence value only rises, but for the wrap exception (stored high part 0xFFFFFFFF, new high
part 0), and nothing else of a record changes (R38, R254, R258): the record after the step is advanced from the one before. -/
def Obligations.ReplayMonotone : Prop :=
  ∀ s t : State, hostSilent s = true → step s = .next t →
    t.ks.length = s.ks.length
      ∧ ∀ (h : Nat) (before now : KeyRec), s.ks[h]? = some before → t.ks[h]? = some now → now.advancedFrom before

/-! ### The frame space -/

/-- MemRead: the bytes in bounds, else MalformedFrame(TRUNCATED) and nothing (R74). -/
def Obligations.MemReadBounded : Prop :=
  ∀ (s : State) (f : Frame) (off n : Nat), s.frm = some f → Memory.wf s.frm = true →
    (f.len < off + n → (memRead off n).run s = .error (.raise .malformedTruncated) s)
      ∧ (off + n ≤ f.len →
        ∃ b, (memRead off n).run s = .ok b s ∧ b.length = n ∧ ∀ i, i < n → b[i]? = f.byte? (off + i))

/-- MemWrite: the bytes written in place, every other byte of the frame kept, else MalformedFrame(TRUNCATED) (R75). -/
def Obligations.MemWriteInPlace : Prop :=
  ∀ (s : State) (f : Frame) (off : Nat) (v : List Byte), s.frm = some f → Memory.wf s.frm = true →
    (f.len < off + v.length → (memWrite off v).run s = .error (.raise .malformedTruncated) s)
      ∧ (off + v.length ≤ f.len →
        ∃ f', (memWrite off v).run s = .ok () { s with frm := some f' } ∧ f'.head = f.head ∧ f'.len = f.len ∧ f'.info = f.info
          ∧ Memory.wf (some f') = true
          ∧ ∀ i, f'.byte? i = if off ≤ i ∧ i < off + v.length then v[i - off]? else f.byte? i)

/-- advance_head, truncate_tail and replace_frame (R76, R77, R78). -/
def Obligations.FrameCuts : Prop :=
  ∀ (s : State) (f : Frame), s.frm = some f → Memory.wf s.frm = true →
    (∀ n, (f.len < n → (advanceHead n).run s = .error (.raise .malformedTruncated) s)
        ∧ (n ≤ f.len → ∃ f', (advanceHead n).run s = .ok () { s with frm := some f' } ∧ f'.head = f.head + n ∧ f'.len = f.len - n
            ∧ f'.info = f.info ∧ Memory.wf (some f') = true ∧ ∀ i, f'.byte? i = f.byte? (n + i)))
      ∧ (∀ n, (f.len < n → (truncateTail n).run s = .error (.raise .malformedTruncated) s)
        ∧ (n ≤ f.len → ∃ f', (truncateTail n).run s = .ok () { s with frm := some f' } ∧ f'.head = f.head ∧ f'.len = f.len - n
            ∧ f'.info = f.info ∧ Memory.wf (some f') = true
            ∧ ∀ i, f'.byte? i = if i < f.len - n then f.byte? i else none))
      ∧ (∀ b : List Byte, ∃ f', (replaceFrame b).run s = .ok () { s with frm := some f' } ∧ f'.head = 0 ∧ f'.len = b.length
            ∧ f'.info = f.info ∧ Memory.wf (some f') = true ∧ ∀ i, f'.byte? i = b[i]?)

/-! ### The tables -/

/-- KS.lookup and ST.lookup: the record found answers, none is found exactly when none answers, and where the tables hold one
answer it is the one found (R36, R37, R42, R43). -/
def Obligations.LookupsAnswer : Prop :=
  (∀ (ks : List KeyRec) (sc : Scope) (a : Addr) (i : BitVec 2),
    let match_ := fun k : KeyRec => k.valid = true ∧ k.scope = sc ∧ k.addr = a ∧ (sc = .group → k.kidx = i)
    (∀ h, ksLookup ks sc a i = some h → ∃ k, ks[h]? = some k ∧ match_ k)
      ∧ (ksLookup ks sc a i = none ↔ ∀ k ∈ ks, ¬ match_ k)
      ∧ (keysUnique ks → ∀ h k, ks[h]? = some k → match_ k → ksLookup ks sc a i = some h))
    ∧ (∀ (st : List StaEntry) (a : Addr),
      (∀ j, stLookup st a = some j → 1 ≤ j ∧ ∃ e, st[j]? = some e ∧ e.valid = true ∧ e.addr = a)
        ∧ (stLookup st a = none ↔ ∀ e ∈ st.drop 1, ¬ (e.valid = true ∧ e.addr = a))
        ∧ (stationsUnique st → ∀ j e, 1 ≤ j → st[j]? = some e → e.valid = true → e.addr = a → stLookup st a = some j))

/-! ### The classifier -/

/-- LENCHK: its row, its stage, and its effect, both intervals closed (R9, R141). -/
def Obligations.Lenchk : Prop :=
  decode (.seq .lenchk) = .ok .lenchk
    ∧ (∀ s : State, s.stage = .raw → s.env.port = [] → step s = exec .lenchk s)
    ∧ ∀ (s : State) (w : BitVec 12) (f : Frame), s.ctx.wlen = some w → s.frm = some f →
      exec .lenchk s
        = .next (if w.toNat < 32 ∨ 2364 < w.toNat ∨ f.len < 14 ∨ 2346 < f.len then
              { dropPath .malformedLength s with stat := { s.stat with malformed := s.stat.malformed + 1 } }
            else { s with stage := .lengthValidated })

/-- CLASSIFY: every register it writes and both its drops, in terms of the live bytes (R143 to R151). -/
def Obligations.Classify : Prop :=
  ∀ (s : State) (f : Frame) (L : List Byte) (fc : BitVec 16) (a4 : Bool) (c : Ctx),
    s.frm = some f → Memory.wf s.frm = true → 10 ≤ f.len → L = f.live → fc = byteAt L 1 ++ byteAt L 0 →
    a4 = (fc.getLsbD 8 && fc.getLsbD 9) →
    c = { s.ctx with
      fc := some fc
      tag := some (if fc.extractLsb' 2 2 = 0 then .mgmt else if fc.extractLsb' 2 2 = 1 then .ctrl else .data)
      isWep := some (fc.getLsbD 14)
      isPspoll := some (decide (fc &&& 0x00FC = 0x00A4))
      hdrlen := some (if a4 then 30 else 24)
      isMcast := some ((byteAt L 4).getLsbD 0)
      isFrag := some (fc.getLsbD 10 || (decide (24 ≤ f.len) && decide ((byteAt L 22).extractLsb' 0 4 ≠ 0)))
      ta := if 16 ≤ f.len then
          some ⟨byteAt L 10, byteAt L 11, byteAt L 12, byteAt L 13, byteAt L 14, byteAt L 15⟩
        else s.ctx.ta } →
    exec .classify s
      = .next (if fc.extractLsb' 2 2 = 3 then dropPath .malformedReservedType { s with ctx := { s.ctx with fc := some fc } }
          else if fc.extractLsb' 2 2 = 2 ∧ f.len < (if a4 then 30 else 24) then dropPath .malformedTruncated { s with ctx := c }
          else { s with ctx := c, stage := .classified })

/-- CLASSIFY is a function of the frame alone. Two states with the same frame, whatever else differs, contexts included, end in
the same stage with the same frame; every register CLASSIFY writes gets the same value in both or is kept in both, and where the
frame is classified the registers that R143 writes are the same in both, TA from 16 bytes on; every other register, the tables and
the configuration are kept. Running it again on what it left changes nothing (R143, R149, R152). -/
def Obligations.ClassifyPure : Prop :=
  (∀ s s' t : State, s'.frm = s.frm → exec .classify s = .next t →
      ∃ t', exec .classify s' = .next t' ∧ t'.stage = t.stage ∧ t'.frm = t.frm
        ∧ sameOrKept Ctx.fc s.ctx t.ctx s'.ctx t'.ctx ∧ sameOrKept Ctx.tag s.ctx t.ctx s'.ctx t'.ctx
        ∧ sameOrKept Ctx.isWep s.ctx t.ctx s'.ctx t'.ctx ∧ sameOrKept Ctx.isPspoll s.ctx t.ctx s'.ctx t'.ctx
        ∧ sameOrKept Ctx.hdrlen s.ctx t.ctx s'.ctx t'.ctx ∧ sameOrKept Ctx.isMcast s.ctx t.ctx s'.ctx t'.ctx
        ∧ sameOrKept Ctx.isFrag s.ctx t.ctx s'.ctx t'.ctx ∧ sameOrKept Ctx.ta s.ctx t.ctx s'.ctx t'.ctx
        ∧ (t.stage = .dropped → t'.ctx.reason = t.ctx.reason)
        ∧ (t.stage = .classified →
          t'.ctx.fc = t.ctx.fc ∧ t'.ctx.tag = t.ctx.tag ∧ t'.ctx.isWep = t.ctx.isWep ∧ t'.ctx.isPspoll = t.ctx.isPspoll
            ∧ t'.ctx.hdrlen = t.ctx.hdrlen ∧ t'.ctx.isMcast = t.ctx.isMcast ∧ t'.ctx.isFrag = t.ctx.isFrag
            ∧ (∀ f, s.frm = some f → 16 ≤ f.len → t'.ctx.ta = t.ctx.ta)
            ∧ t'.ctx.reason = s'.ctx.reason ∧ t'.stat = s'.stat ∧ t'.out = s'.out ∧ t'.lock = s'.lock)
        ∧ t'.ctx = { s'.ctx with
            fc := t'.ctx.fc, tag := t'.ctx.tag, isWep := t'.ctx.isWep, isPspoll := t'.ctx.isPspoll, hdrlen := t'.ctx.hdrlen,
            isMcast := t'.ctx.isMcast, isFrag := t'.ctx.isFrag, ta := t'.ctx.ta, reason := t'.ctx.reason }
        ∧ t'.cfg = s'.cfg ∧ t'.ks = s'.ks ∧ t'.st = s'.st ∧ t'.par = s'.par ∧ t'.env = s'.env)
    ∧ (∀ s t : State, exec .classify s = .next t → t.stage = .classified → exec .classify t = .next t)

/-- The result rows of CLASSIFY, each by itself (R143, R147, R148, R150). -/
def Obligations.ClassifierRows : Prop :=
  ∀ s : State,
    exec .clsMgmt s = .next { s with ctx := { s.ctx with tag := some .mgmt } }
      ∧ exec .clsCtrl s = .next { s with ctx := { s.ctx with tag := some .ctrl } }
      ∧ exec .clsData s = .next { s with ctx := { s.ctx with tag := some .data } }
      ∧ exec .clsRsvd s = .next (dropPath .malformedReservedType s)
      ∧ exec .clsPspoll s = .next { s with ctx := { s.ctx with isPspoll := some true } }
      ∧ exec .hdrA4 s = .next { s with ctx := { s.ctx with hdrlen := some 30 } }
      ∧ exec .hdrA3 s = .next { s with ctx := { s.ctx with hdrlen := some 24 } }

/-! ### The access-point filter -/

/-- APCTL, the class rules: the action and the drop, and nothing else changes but CTX.STA (R162, R164, R166, R167). -/
def Obligations.ApctlClassRules : Prop :=
  (∀ s : State, s.ctx.ta = none → exec .apctl s = .next (dropPath .malformedTruncated s))
    ∧ (∀ (s : State) (a : Addr), s.ctx.ta = some a → (∀ e ∈ s.st.drop 1, e.valid = true → e.addr ≠ a) →
      exec .apctl s
        = .next (dropPath .class2
            { s with ctx := { s.ctx with sta := some none }, out := s.out ++ [.actionDeauth a 6] }))
    ∧ (∀ (s : State) (a : Addr) (i : Nat) (e : StaEntry), s.ctx.ta = some a → stLookup s.st a = some i →
      s.st[i]? = some e →
        (e.assoc = .unauthenticated →
          exec .apctl s
            = .next (dropPath .class2
                { s with ctx := { s.ctx with sta := some (some i) }, out := s.out ++ [.actionDeauth a 6] }))
          ∧ (e.assoc = .authenticated →
            exec .apctl s
              = .next (dropPath .class3
                  { s with ctx := { s.ctx with sta := some (some i) }, out := s.out ++ [.actionDisassoc a 7] })))

/-- APCTL for an Associated transmitter: the four power-save outcomes (R162, R169, R171, R172, R173). -/
def Obligations.ApctlPowerSave : Prop :=
  ∀ (s : State) (a : Addr) (i : Nat) (e : StaEntry) (p : Bool) (fc : BitVec 16) (t : State),
    s.ctx.ta = some a → stLookup s.st a = some i → s.st[i]? = some e → e.assoc = .associated →
    s.ctx.isPspoll = some p → s.ctx.fc = some fc →
    t = { s with ctx := { s.ctx with sta := some (some i) }, stage := .apFiltered } →
    exec .apctl s
      = .next (if p = true then
            { t with st := s.st.set i { e with ready := true }, out := s.out ++ [.psDeliverOne i] }
          else if fc.getLsbD 12 = false ∧ e.ps = true then
            { t with st := s.st.set i { e with ps := false, ready := false, q := [] }, out := s.out ++ [.psFlush i e.q] }
          else if fc.getLsbD 12 = true then
            { t with st := (s.st.set i { e with ps := true }).modify 0 fun e0 => { e0 with ps := true } }
          else t)

/-- APCTL.DEAUTH and APCTL.DISASSOC: the words of STA3 that select them, and what they do (R166, R167). -/
def Obligations.ApctlClassRows : Prop :=
  (∀ w : BitVec 3,
    decode (.sta3 w)
      = if w.getLsbD 2 = false ∨ w.extractLsb' 0 2 = 0 then .ok .apctlDeauth
        else if w.extractLsb' 0 2 = 1 then .ok .apctlDisassoc
        else if w.extractLsb' 0 2 = 2 then .error .passesOn
        else .error .reservedState)
    ∧ (∀ (s : State) (a : Addr), s.ctx.ta = some a →
      exec .apctlDeauth s = .next (dropPath .class2 { s with out := s.out ++ [.actionDeauth a 6] })
        ∧ exec .apctlDisassoc s = .next (dropPath .class3 { s with out := s.out ++ [.actionDisassoc a 7] }))

/-- APCTL.PSPOLL, APCTL.PSWAKE, APCTL.PSSET and APCTL.PSNOP: the words of PSW3 that select them, and what they do (R169, R171,
R172, R173). -/
def Obligations.ApctlPowerRows : Prop :=
  (∀ poll pm ps : Bool,
    decode (.psw3 (BitVec.ofBool poll ++ BitVec.ofBool pm ++ BitVec.ofBool ps))
      = .ok (if poll then .apctlPspoll else if pm then .apctlPsset else if ps then .apctlPswake else .apctlPsnop))
    ∧ (∀ (s : State) (i : Nat) (e : StaEntry), s.ctx.sta = some (some i) → s.st[i]? = some e →
      exec .apctlPspoll s
          = .next { s with st := s.st.set i { e with ready := true }, out := s.out ++ [.psDeliverOne i] }
        ∧ exec .apctlPswake s
          = .next { s with st := s.st.set i { e with ps := false, ready := false, q := [] },
                           out := s.out ++ [.psFlush i e.q] }
        ∧ exec .apctlPsset s
          = .next { s with st := (s.st.set i { e with ps := true }).modify 0 fun e0 => { e0 with ps := true } })
    ∧ (∀ s : State, exec .apctlPsnop s = .next s)

/-- ROUTE: the six outcomes (R180 to R187, R322), with R46's two values in its own words: `n` is count_assoc, the number of
entries with index 1 or more that are valid and Associated, and `dozing` is any_ps, true when entry 0 has PS or some valid entry
with index 1 or more has it. -/
def Obligations.RouteDecision : Prop :=
  ∀ (s : State) (a : Addr) (f : Frame) (e0 : StaEntry) (n : Nat) (dozing : Bool),
    s.ctx.da = some a → s.frm = some f → s.st[0]? = some e0 →
    n = ((s.st.drop 1).filter fun e => decide (e.valid = true ∧ e.assoc = .associated)).length →
    (dozing = true ↔ e0.ps = true ∨ ∃ e ∈ s.st.drop 1, e.valid = true ∧ e.ps = true) →
    let routed := fun (r : Route) (b : Bool) => { s.ctx with route := some r, toStack := some b }
    exec .route s
      = .next (if n = 0 then { s with ctx := routed .toStack true }
          else if a.b0.getLsbD 0 = true then
            (if dozing = true then
              (if e0.q.length < s.par.psqCap then
                { s with ctx := routed .queuedMcast true, st := s.st.set 0 { e0 with q := e0.q ++ [f.packet] } }
              else { s with ctx := routed .queuedMcast true, stat := s.stat.bump .psqOverflow })
            else { s with ctx := routed .relayFlood true })
          else
            match (stLookup s.st a).bind fun i => (s.st[i]?).map fun e => (i, e) with
            | none => { s with ctx := routed .toStack true }
            | some (i, e) =>
              if e.assoc = .associated then
                (if e.ps = true then
                  (if e.q.length < s.par.psqCap then
                    { s with ctx := routed (.queuedSta i) false, frm := none,
                             st := s.st.set i { e with q := e.q ++ [f.packet] } }
                  else dropPath .queueOverflow s)
                else { s with ctx := routed (.relayUcast i) false })
              else { s with ctx := routed .toStack true })

/-- The rows of ROUTE, each by itself (R181 to R185). -/
def Obligations.RouteRows : Prop :=
  ∀ s : State,
    let routed := fun (r : Route) (b : Bool) => { s.ctx with route := some r, toStack := some b }
    exec .routeNosta s = .next { s with ctx := routed .toStack true }
      ∧ exec .routeFlood s = .next { s with ctx := routed .relayFlood true }
      ∧ exec .routeLocal s = .next { s with ctx := routed .toStack true }
      ∧ (∀ (f : Frame) (e0 : StaEntry), s.frm = some f → s.st[0]? = some e0 →
        exec .routeMcq s
          = .next (if e0.q.length < s.par.psqCap then
                { s with ctx := routed .queuedMcast true, st := s.st.set 0 { e0 with q := e0.q ++ [f.packet] } }
              else { s with ctx := routed .queuedMcast true, stat := s.stat.bump .psqOverflow }))
      ∧ (∀ (a : Addr) (i : Nat) (e : StaEntry), s.ctx.da = some a → stLookup s.st a = some i → s.st[i]? = some e →
        exec .routeUcrelay s = .next { s with ctx := routed (.relayUcast i) false }
          ∧ ∀ f : Frame, s.frm = some f →
            exec .routeUcq s
              = .next (if e.q.length < s.par.psqCap then
                    { s with ctx := routed (.queuedSta i) false, frm := none,
                             st := s.st.set i { e with q := e.q ++ [f.packet] } }
                  else dropPath .queueOverflow s))

/-- PSQ.PUSH: the capacity test and the move are one step; a full queue drops the new frame and stays as it is (R186, R187). -/
def Obligations.PsqPush : Prop :=
  ∀ (s : State) (i : Nat) (e : StaEntry) (f : Frame), s.st[i]? = some e → s.frm = some f →
    exec (.psqPush i) s
      = .next (if s.par.psqCap ≤ e.q.length then dropPath .queueOverflow s
          else { s with st := s.st.set i { e with q := e.q ++ [f.packet] }, frm := none })

/-! ### The decryption dispatcher -/

/-- IVPARSE: the IV, the key index from bits 7 to 6 of its fourth byte, the extended-IV bit (R105, R107, R203). -/
def Obligations.Ivparse : Prop :=
  decode (.seq .ivparse) = .ok .ivparse ∧ ∀ (s : State) (f : Frame) (h : BitVec 5) (L : List Byte), s.frm = some f → Memory.wf s.frm = true →
    s.ctx.hdrlen = some h → L = f.live →
    exec .ivparse s
      = .next (if f.len < h.toNat + 4 then dropPath .malformedTruncated s
          else { s with ctx := { s.ctx with
              iv := some ⟨byteAt L h.toNat, byteAt L (h.toNat + 1), byteAt L (h.toNat + 2), byteAt L (h.toNat + 3)⟩
              kidx := some ((byteAt L (h.toNat + 3)).extractLsb' 6 2)
              extIv := some ((byteAt L (h.toNat + 3)).getLsbD 5) } })

/-- KEYSEL: condition (a) chooses one lookup, the broadcast group key is the only fallback, the index plays no part in the
pairwise lookup (R31, R207 to R210). -/
def Obligations.Keysel : Prop :=
  ∀ (s : State) (mcast : Bool) (ta : Addr) (ki anyIndex : BitVec 2) (pw : Bool) (c : Ctx),
    s.ctx.isMcast = some mcast → s.ctx.ta = some ta → s.ctx.kidx = some ki →
    pw = (decide (1 ≤ s.cfg.akm.code.toNat) && !mcast && decide (s.cfg.pairwiseSuite.code ≠ 0)) →
    c = { s.ctx with usePw := some pw } →
    exec .keysel s
      = .next (match (if pw then ksLookup s.ks .pairwise ta anyIndex else ksLookup s.ks .group s.cfg.bssid ki) with
          | some k => { s with ctx := { c with key := some k } }
          | none =>
            match ksLookup s.ks .group Addr.broadcast ki with
            | some k => { s with ctx := { c with key := some k } }
            | none => dropPath .noKey { s with ctx := c })

/-- KEYSEL.PW, KEYSEL.GRP and KEYSEL.BCAST, each by itself (R207). -/
def Obligations.KeyselRows : Prop :=
  decode (.ksel1 1) = .ok .keyselPw ∧ decode (.ksel1 0) = .ok .keyselGrp
    ∧ (∀ (s : State) (ta : Addr), s.ctx.ta = some ta →
      exec .keyselPw s
        = .next { s with ctx := { s.ctx with usePw := some true, key := (ksLookup s.ks .pairwise ta 0).or s.ctx.key } })
    ∧ (∀ (s : State) (ki : BitVec 2), s.ctx.kidx = some ki →
      exec .keyselGrp s
          = .next { s with ctx := { s.ctx with
              usePw := some false, key := (ksLookup s.ks .group s.cfg.bssid ki).or s.ctx.key } }
        ∧ exec .keyselBcast s
          = .next (match ksLookup s.ks .group Addr.broadcast ki with
              | some k => { s with ctx := { s.ctx with key := some k } }
              | none => dropPath .noKey s))

/-- CIPHERCHK: the policy's suite or CipherMismatch, before any cipher primitive (R212). -/
def Obligations.Cipherchk : Prop :=
  decode (.seq .cipherchk) = .ok .cipherchk ∧ ∀ (s : State) (h : Nat) (k : KeyRec) (pw : Bool), s.ctx.key = some h → s.ks[h]? = some k → s.ctx.usePw = some pw →
    exec .cipherchk s
      = .next (if k.suite ≠ (if pw = true then s.cfg.pairwiseSuite else s.cfg.groupSuite) then dropPath .cipherMismatch s
          else { s with ctx := { s.ctx with suite := some k.suite } })

/-- The dispatch by suite, its four arms, and DEC.NONE (R216, R217). -/
def Obligations.SuiteDispatch : Prop :=
  decode (.suite2 Suite.noSuite.code) = .ok .decNone ∧ decode (.suite2 Suite.wep.code) = .ok .decWep
    ∧ decode (.suite2 Suite.tkip.code) = .ok .decTkip ∧ decode (.suite2 Suite.ccmp.code) = .ok .decCcmp
    ∧ ∀ s : State, exec .decNone s = .next (dropPath .noKeySuiteNone s)

/-- DEC.WEP (R218, R219, R220), for every rc4 and crc32. -/
def Obligations.DecWep : Prop :=
  ∀ (s : State) (f : Frame) (h : BitVec 5) (iv : Iv4) (kh : Nat) (k : KeyRec) (ext : Bool) (d : Nat) (p : List Byte) (t : State),
    s.frm = some f → Memory.wf s.frm = true → s.ctx.hdrlen = some h → s.ctx.iv = some iv → s.ctx.key = some kh →
    s.ks[kh]? = some k → s.ctx.extIv = some ext → d = f.len - h.toNat - 4 - 4 →
    p = (Config.rc4 ([iv.b0, iv.b1, iv.b2] ++ k.material) (d + 4) (toVec (d + 4) (f.live.drop (h.toNat + 4)))).toList →
    t = { s with frm := some (f.write (h.toNat + 4) p),
                 ctx := { s.ctx with decryptOk := some (Config.crc32 (p.take d) == le32 (p.drop d)) } } →
    exec .decWep s
      = .next (if ext = true then dropPath .noKeyIvFormat s
          else if f.len < h.toNat + 4 + 4 then dropPath .malformedTruncated s
          else if Config.crc32 (p.take d) = le32 (p.drop d) then t
          else dropPath .integrityWep t)

/-- DEC.TKIP (R108, R222, R223, R224, R226), for every rc4, crc32, tkip_mix and michael_ok. -/
def Obligations.DecTkip : Prop :=
  ∀ (s : State) (f : Frame) (h : BitVec 5) (iv : Iv4) (kh : Nat) (k : KeyRec) (ta : Addr) (ext : Bool) (L : List Byte)
    (lo : BitVec 16) (hi : BitVec 32) (d : Nat) (p : List Byte) (t : State),
    s.frm = some f → Memory.wf s.frm = true → s.ctx.hdrlen = some h → s.ctx.iv = some iv → s.ctx.key = some kh →
    s.ks[kh]? = some k → s.ctx.ta = some ta → s.ctx.extIv = some ext → L = f.live → lo = iv.b0 ++ iv.b2 →
    hi = byteAt L (h.toNat + 7) ++ byteAt L (h.toNat + 6) ++ byteAt L (h.toNat + 5) ++ byteAt L (h.toNat + 4) →
    d = f.len - h.toNat - 8 - 4 →
    p = (Config.rc4 (Config.tkipMix k.material ta lo hi) (d + 4) (toVec (d + 4) (L.drop (h.toNat + 8)))).toList →
    t = { s with frm := some (f.write (h.toNat + 8) p),
                 ctx := { s.ctx with tscLo := some lo, tscHi := some hi } } →
    exec .decTkip s
      = .next (if ext = false then dropPath .integrityTkip s
          else if f.len < h.toNat + 8 + 8 + 4 then dropPath .malformedTruncated s
          else if Config.crc32 (p.take d) ≠ le32 (p.drop d) then dropPath .integrityTkip t
          else if Config.michaelOk k.material (L.take (h.toNat + 8) ++ p.take d) = true then
            { t with ctx := { t.ctx with decryptOk := some true } }
          else dropPath .integrityTkipMic t)

/-- DEC.CCMP (R109, R224, R228), for every ccmp_open: the plaintext is written where the primitive authenticates, and the frame
is dropped where it does not. -/
def Obligations.DecCcmp : Prop :=
  ∀ (s : State) (f : Frame) (h : BitVec 5) (iv : Iv4) (kh : Nat) (k : KeyRec) (ext : Bool) (L : List Byte)
    (lo : BitVec 16) (hi : BitVec 32) (d : Nat) (r : Vector Byte d × Bool) (t : State),
    s.frm = some f → Memory.wf s.frm = true → s.ctx.hdrlen = some h → s.ctx.iv = some iv → s.ctx.key = some kh →
    s.ks[kh]? = some k → s.ctx.extIv = some ext → L = f.live → lo = iv.b1 ++ iv.b0 →
    hi = byteAt L (h.toNat + 7) ++ byteAt L (h.toNat + 6) ++ byteAt L (h.toNat + 5) ++ byteAt L (h.toNat + 4) →
    d = f.len - h.toNat - 8 - 8 →
    r = Config.ccmpOpen k.material lo hi (L.take h.toNat) d (toVec (d + 8) (L.drop (h.toNat + 8))) →
    t = { s with ctx := { s.ctx with tscLo := some lo, tscHi := some hi, decryptOk := some r.2 } } →
    exec .decCcmp s
      = .next (if ext = false then dropPath .integrityCcmp s
          else if f.len < h.toNat + 8 + 8 then dropPath .malformedTruncated s
          else if r.2 = true then { t with frm := some (f.write (h.toNat + 8) r.1.toList) }
          else dropPath .integrityCcmp t)

/-- STRIP: 4 bytes for WEP, 12 for TKIP, 8 for CCMP (R223, R232; the note that DECRYPT completed is R312's `dec`). -/
def Obligations.Strip : Prop :=
  ∀ (s : State) (f : Frame) (su : Suite) (n : Nat), s.frm = some f → s.ctx.suite = some su →
    (su = .noSuite ∧ n = 0) ∨ (su = .wep ∧ n = 4) ∨ (su = .tkip ∧ n = 12) ∨ (su = .ccmp ∧ n = 8) →
    exec .strip s
      = .next (if f.len < n then dropPath .malformedTruncated s
          else { s with frm := some { f with len := f.len - n }, ctx := { s.ctx with dec := true }, stage := .decrypted })

/-- The dispatcher writes the frame, CTX, the stage and at most one counter: never a table, the configuration or an event but
DROP (R236). -/
def Obligations.DispatcherSideEffects : Prop :=
  ∀ (i : Instr) (s t : State), isDispatcherOperation i → exec i s = .next t →
    t.ks = s.ks ∧ t.st = s.st ∧ t.cfg = s.cfg ∧ t.par = s.par ∧ t.env = s.env
      ∧ ((t.out = s.out ∧ t.stat = s.stat ∧ t.lock = s.lock)
        ∨ ∃ r c, reasonCounter r = some c ∧ t.out = s.out ++ [.drop (reasonCode r)] ∧ t.stat = s.stat.bump c
            ∧ t.stage = .dropped)

/-- Where the three ciphers store: a frame that they leave has its length and its metadata, no byte before the payload changed,
and under CCMP none of the last 8 (R218, R222, R228). -/
def Obligations.CiphersStoreInPayload : Prop :=
  ∀ (s : State) (f : Frame) (h : BitVec 5) (iv : Iv4) (kh : Nat) (k : KeyRec) (ta : Addr) (ext : Bool),
    s.frm = some f → Memory.wf s.frm = true → s.ctx.hdrlen = some h → s.ctx.iv = some iv → s.ctx.key = some kh →
    s.ks[kh]? = some k → s.ctx.ta = some ta → s.ctx.extIv = some ext →
    let keeps := fun (t : State) (stored : Nat → Prop) => ∀ f', t.frm = some f' →
      f'.len = f.len ∧ f'.info = f.info ∧ ∀ a, ¬ stored a → f'.byte? a = f.byte? a
    (∃ t, exec .decWep s = .next t ∧ keeps t fun a => h.toNat + 4 ≤ a ∧ a < f.len)
      ∧ (∃ t, exec .decTkip s = .next t ∧ keeps t fun a => h.toNat + 8 ≤ a ∧ a < f.len)
      ∧ (∃ t, exec .decCcmp s = .next t ∧ keeps t fun a => h.toNat + 8 ≤ a ∧ a < f.len - 8)

/-! ### The replay checker -/

/-- RPLCHK: accepted when the 48-bit candidate is greater, or by the wrap exception; the stored value becomes the candidate,
else it stays and the frame is dropped (R252, R253, R254, R255). -/
def Obligations.Rplchk : Prop :=
  decode (.seq .rplchk) = .ok .rplchk ∧ ∀ (s : State) (h : Nat) (k : KeyRec) (nh : BitVec 32) (nl : BitVec 16) (su : Suite) (r : Reason),
    s.ctx.tscHi = some nh → s.ctx.tscLo = some nl → s.ctx.key = some h → s.ks[h]? = some k → s.ctx.suite = some su →
    (su = .tkip ∧ r = .replayTkip) ∨ (su = .ccmp ∧ r = .replayCcmp) →
    exec .rplchk s
      = .next (if k.tscHi.toNat * 65536 + k.tscLo.toNat < nh.toNat * 65536 + nl.toNat ∨ (nh = 0 ∧ k.tscHi = 0xFFFFFFFF) then
            { s with ks := s.ks.set h { k with tscLo := nl, tscHi := nh }, stage := .replayChecked }
          else dropPath r s)

/-- A sequence value accepted once is rejected the second time (R252, R258). -/
def Obligations.SameTscRejected : Prop :=
  ∀ (s t u : State) (h : Nat) (su : Suite) (r : Reason), exec .rplchk s = .next t → t.stage = .replayChecked →
    s.ctx.key = some h → u.ks = t.ks → u.ctx.key = some h → u.ctx.tscHi = s.ctx.tscHi → u.ctx.tscLo = s.ctx.tscLo →
    u.ctx.suite = some su → (su = .tkip ∧ r = .replayTkip) ∨ (su = .ccmp ∧ r = .replayCcmp) →
    exec .rplchk u = .next (dropPath r u)

/-! ### The fragment hand-off -/

/-- DEFRAG, for every answer of the reassembler, listed or free (R266, R267, R269, R270, R271, R357; log 2). -/
def Obligations.Defrag : Prop :=
  ∀ (s : State) (f : Frame) (m : Bool) (a : Answer) (env : Env), s.frm = some f → s.ctx.isMcast = some m →
    (match s.env.answers with
      | x :: rest => a = x ∧ env = { s.env with answers := rest, submitted := s.env.submitted ++ [f.packet] }
      | [] => (match Config.reassemblerAnswer s.env.freeCount with
            | some b => a = .complete b
            | none => a = .incomplete)
          ∧ env = { s.env with freeCount := s.env.freeCount + 1, submitted := s.env.submitted ++ [f.packet] }) →
    exec .defrag s
      = .next (if m = true then dropPath .malformedMcastFragment s
          else
            match a with
            | .complete b =>
              { s with env := env, frm := some { buf := b, head := 0, len := b.length, info := f.info },
                       stage := .defragmented }
            | .incomplete => dropPath .reassemblyIncomplete { s with env := env, out := s.out ++ [.replenish] })

/-! ### The header translator -/

/-- The four address rows: the address fields they read, and the drop where a field lies past the end (R282). -/
def Obligations.XltAddressRows : Prop :=
  ∀ (s : State) (f : Frame) (L : List Byte), s.frm = some f → Memory.wf s.frm = true → L = f.live →
    let addr := fun o : Nat =>
      (⟨byteAt L o, byteAt L (o + 1), byteAt L (o + 2), byteAt L (o + 3), byteAt L (o + 4), byteAt L (o + 5)⟩ : Addr)
    let with_ := fun da sa : Addr => { s with ctx := { s.ctx with da := some da, sa := some sa } }
    exec .xltIbss s = .next (if f.len < 16 then dropPath .malformedTruncated s else with_ (addr 4) (addr 10))
      ∧ exec .xltFromap s = .next (if f.len < 22 then dropPath .malformedTruncated s else with_ (addr 4) (addr 16))
      ∧ exec .xltToap s = .next (if f.len < 22 then dropPath .malformedTruncated s else with_ (addr 16) (addr 10))
      ∧ exec .xltWds s = .next (if f.len < 30 then dropPath .malformedTruncated s else with_ (addr 16) (addr 24))

/-- HDRXLT: the Ethernet frame it makes of the 802.11 frame, byte for byte, where it moves the head, which bytes it leaves in
place, and both drops (R282, R284, R286, R288, R290, R292, R294, R296). -/
def Obligations.Hdrxlt : Prop :=
  ∀ (s : State) (f : Frame) (L : List Byte) (fc : BitVec 16) (hd pay q : Nat) (da sa : Addr) (pass : Bool) (c : Ctx),
    let addr := fun o : Nat =>
      (⟨byteAt L o, byteAt L (o + 1), byteAt L (o + 2), byteAt L (o + 3), byteAt L (o + 4), byteAt L (o + 5)⟩ : Addr)
    s.frm = some f → Memory.wf s.frm = true → L = f.live → fc = byteAt L 1 ++ byteAt L 0 →
    hd = (if fc.getLsbD 8 = true ∧ fc.getLsbD 9 = true then 30 else 24) →
    da = (if fc.getLsbD 8 = true then addr 16 else addr 4) →
    sa = (if fc.getLsbD 9 = true then (if fc.getLsbD 8 = true then addr 24 else addr 16) else addr 10) →
    pay = hd + (if fc.getLsbD 14 = true then (if (byteAt L (hd + 3)).getLsbD 5 = true then 8 else 4) else 0) →
    pass = (decide ((L.drop pay).take 6 = [0xAA, 0xAA, 0x03, 0x00, 0x00, 0x00])
      && decide (byteAt L (pay + 6) ++ byteAt L (pay + 7) ≠ (0x8137 : BitVec 16))
      && decide (byteAt L (pay + 6) ++ byteAt L (pay + 7) ≠ s.par.sttType2)) →
    q = (if pass = true then pay + 6 else pay) →
    c = { s.ctx with da := some da, sa := some sa } →
    (f.len < hd → exec .hdrxlt s = .next (dropPath .malformedTruncated s))
      ∧ (hd ≤ f.len → f.len < pay + 8 → exec .hdrxlt s = .next (dropPath .malformedTruncated { s with ctx := c }))
      ∧ (hd ≤ f.len → pay + 8 ≤ f.len →
        ∃ f', exec .hdrxlt s = .next { s with frm := some f', ctx := c, stage := .headerTranslated }
          ∧ f'.live = da.toList ++ sa.toList
              ++ (if pass = true then [] else bytesBe16 (BitVec.ofNat 16 (f.len - pay))) ++ L.drop q
          ∧ f'.head = f.head + (if pass = true then pay - 6 else pay - 14)
          ∧ f'.buf.length = f.buf.length ∧ f'.buf.drop (f.head + q) = f.buf.drop (f.head + q)
          ∧ f'.info = f.info ∧ Memory.wf (some f') = true)

/-- XLT.PASS, XLT.LEN and XLT.RAW by themselves, on the addresses that an address row left (R290, R292, R294). -/
def Obligations.XltPayloadRows : Prop :=
  ∀ (s : State) (f : Frame) (L : List Byte) (fc : BitVec 16) (hd pay : Nat) (da sa : Addr),
    s.frm = some f → Memory.wf s.frm = true → L = f.live → fc = byteAt L 1 ++ byteAt L 0 →
    hd = (if fc.getLsbD 8 = true ∧ fc.getLsbD 9 = true then 30 else 24) →
    pay = hd + (if fc.getLsbD 14 = true then (if (byteAt L (hd + 3)).getLsbD 5 = true then 8 else 4) else 0) →
    s.ctx.da = some da → s.ctx.sa = some sa → pay + 8 ≤ f.len →
    (∃ f', exec .xltPass s = .next { s with frm := some f' } ∧ f'.info = f.info ∧ f'.len = f.len - pay + 6
        ∧ f'.live = da.toList ++ sa.toList ++ L.drop (pay + 6))
      ∧ (∃ f', exec .xltLen s = .next { s with frm := some f' } ∧ exec .xltRaw s = .next { s with frm := some f' }
        ∧ f'.info = f.info ∧ f'.len = f.len - pay + 14
        ∧ f'.live = da.toList ++ sa.toList ++ bytesBe16 (BitVec.ofNat 16 (f.len - pay)) ++ L.drop pay)

/-! ### The terminal operations and the drop path -/

/-- MGMT_DISPATCH: the frame as received leaves, the pass ends (R316). -/
def Obligations.MgmtDispatch : Prop :=
  decode (.seq .mgmtDispatch) = .ok .mgmtDispatch ∧ ∀ (s : State) (f : Frame), s.frm = some f →
    exec .mgmtDispatch s
      = .next { s with out := s.out ++ [.mgmtDispatch { bytes := f.live, info := f.info }], frm := none, stage := .delivered,
                       lock := false }

/-- DELIVER: outside access-point mode always LOCAL to the stack, in it the route that ROUTE left; a frame moved to a queue
does not leave (R320, R324). -/
def Obligations.Deliver : Prop :=
  (∀ (s : State) (f : Frame), s.cfg.apMode = false → s.frm = some f →
      exec .deliver s
        = .next { s with ctx := { s.ctx with route := some .toStack, toStack := some true },
                         out := s.out ++ [.deliver (some f.packet) .toStack true], frm := none, stage := .delivered,
                         lock := false })
    ∧ (∀ (s : State) (r : Route) (b : Bool), s.cfg.apMode = true → s.ctx.route = some r → s.ctx.toStack = some b →
      (∀ i, r = .queuedSta i →
        exec .deliver s
          = .next { s with out := s.out ++ [.deliver none r b], frm := none, stage := .delivered, lock := false })
        ∧ ((∀ i, r ≠ .queuedSta i) → ∀ f, s.frm = some f →
          exec .deliver s
            = .next { s with out := s.out ++ [.deliver (some f.packet) r b], frm := none, stage := .delivered,
                             lock := false }))

/-- The drop path with every reason's code and counter, and what an increment does (R33, R326, R371, R385). -/
def Obligations.DropPath : Prop :=
  (∀ x : Reason × BitVec 5 × Option Counter,
    x ∈ [(Reason.malformedLength, 1, some Counter.malformed), (.malformedReservedType, 2, some .malformed),
      (.malformedTruncated, 3, some .malformed), (.malformedMcastFragment, 4, some .malformed),
      (.cipherMismatch, 5, some .cipherMismatch), (.integrityWep, 6, some .wepDecryptErr),
      (.integrityTkip, 7, some .tkipDecryptErr), (.integrityTkipMic, 8, some .tkipMicErr),
      (.integrityCcmp, 9, some .ccmpDecryptErr), (.replayTkip, 10, some .tkipReplay), (.replayCcmp, 11, some .ccmpReplay),
      (.reassemblyIncomplete, 12, none), (.class2, 13, some .class2), (.class3, 14, some .class3),
      (.noKey, 15, some .wepUndecryptable), (.noKeySuiteNone, 16, some .wepUndecryptable),
      (.noKeyIvFormat, 17, some .wepUndecryptable), (.queueOverflow, 18, some .psqOverflow)] →
    ∀ s : State,
      exec (.drop x.1) s
          = .next { s with stat := (match x.2.2 with | some c => s.stat.bump c | none => s.stat),
                           ctx := { s.ctx with reason := some x.2.1 }, out := s.out ++ [.drop x.2.1], frm := none,
                           stage := .dropped, lock := false }
        ∧ exec (.drop x.1) s = .next (dropPath x.1 s))
    ∧ (∀ (v : Stats) (c c' : Counter), (v.bump c).get c' = if c' = c then v.get c + 1 else v.get c')

/-! ### The host -/

/-- H.FRAME_IN: accepted between passes, with every context register emptied, refused otherwise (R51, R310). That the block
itself saturates WLEN at 4095 is the model's (DEDUCED, log 18): R310 has the host present it saturated. The reply latch is the
model's too (log 8). -/
def Obligations.FrameIn : Prop :=
  ∀ (s : State) (b : List Byte) (n : Nat) (m : Meta),
    exec (.hFrameIn b n m) s
      = .next (if (s.stage = .idle ∨ s.stage = .delivered ∨ s.stage = .dropped) ∧ s.lock = false then
            { s with lock := true, ctx := { Ctx.empty with wlen := some (BitVec.ofNat 12 (min n 4095)) },
                     frm := some { buf := b, head := 0, len := b.length, info := m }, stage := .raw,
                     env := { s.env with reply := some .done } }
          else { s with env := { s.env with reply := some .refused } })

/-- H.CFG_WRITE: one register written, or refused when the value is outside the register's defined values (R30, R342); the
registers' numbers are the port's (log 3), and the refusal of a number that names no register is the model's choice
(log 23). -/
def Obligations.CfgWrite : Prop :=
  ∀ (s : State) (v : Nat), s.lock = false →
    let done := fun c : Cfg => Host.Outcome.next (φ := Fault) (ρ := Refusal) (({ s with cfg := c } : State).withReply .done)
    let refused := Host.Outcome.next (φ := Fault) (ρ := Refusal) (s.withReply .refused)
    exec (.hCfgWrite 0 v) s = (if v = 0 then done { s.cfg with apMode := false } else if v = 1 then
          done { s.cfg with apMode := true } else refused)
      ∧ (∀ a : Akm, v = a.code.toNat → exec (.hCfgWrite 1 v) s = done { s.cfg with akm := a })
      ∧ (4 < v → exec (.hCfgWrite 1 v) s = refused)
      ∧ (∀ u : Suite, v = u.code.toNat →
          exec (.hCfgWrite 2 v) s = done { s.cfg with pairwiseSuite := u }
            ∧ exec (.hCfgWrite 3 v) s = done { s.cfg with groupSuite := u })
      ∧ (3 < v → exec (.hCfgWrite 2 v) s = refused ∧ exec (.hCfgWrite 3 v) s = refused)
      ∧ (∀ a : Addr, v = ofLeBytes a.toList → exec (.hCfgWrite 4 v) s = done { s.cfg with bssid := a })
      ∧ (2 ^ 48 ≤ v → exec (.hCfgWrite 4 v) s = refused)
      ∧ (∀ reg, 4 < reg → exec (.hCfgWrite reg v) s = refused)

/-- H.KEY_SET: the matching record is overwritten, else an invalid one taken, else refused; afterwards the lookup finds the
record as given (R344). -/
def Obligations.KeySet : Prop :=
  ∀ (s : State) (sc su : Nat) (a : Addr) (ki : Nat) (m : List Byte) (lo hi : Nat), s.lock = false →
    (¬ (sc < 2 ∧ ki < 4 ∧ su < 4 ∧ 1 ≤ m.length ∧ m.length ≤ 32 ∧ lo < 2 ^ 16 ∧ hi < 2 ^ 32) →
      exec (.hKeySet sc a ki su m lo hi) s = .next (s.withReply .refused))
      ∧ (∀ (scope : Scope) (suite : Suite) (k : KeyRec),
        sc = (match scope with | .group => 0 | .pairwise => 1) → su = suite.code.toNat → ki < 4 → 1 ≤ m.length → m.length ≤ 32 →
        lo < 2 ^ 16 → hi < 2 ^ 32 →
        k = { valid := true, scope := scope, addr := a, kidx := BitVec.ofNat 2 ki, suite := suite, material := m,
              tscLo := BitVec.ofNat 16 lo, tscHi := BitVec.ofNat 32 hi } →
        (∀ h, ksLookup s.ks scope a (BitVec.ofNat 2 ki) = some h →
          exec (.hKeySet sc a ki su m lo hi) s = .next (({ s with ks := s.ks.set h k } : State).withReply .done))
          ∧ (ksLookup s.ks scope a (BitVec.ofNat 2 ki) = none → (∃ x ∈ s.ks, x.valid = false) →
            ∃ h x, s.ks[h]? = some x ∧ x.valid = false
              ∧ exec (.hKeySet sc a ki su m lo hi) s = .next (({ s with ks := s.ks.set h k } : State).withReply .done)
              ∧ ksLookup (s.ks.set h k) scope a (BitVec.ofNat 2 ki) = some h)
          ∧ (ksLookup s.ks scope a (BitVec.ofNat 2 ki) = none → (∀ x ∈ s.ks, x.valid = true) →
            exec (.hKeySet sc a ki su m lo hi) s = .next (s.withReply .refused)))

/-- H.KEY_DEL: the matching record, if any, becomes invalid, and nothing else changes; then, where the keys are unique, the
lookup finds none. A key index plays no part in deleting a pairwise key, and an operand out of range matches no record (R345). -/
def Obligations.KeyDel : Prop :=
  ∀ (s : State) (a : Addr) (n : Nat), s.lock = false →
    (∀ h k, ksLookup s.ks .pairwise a 0 = some h → s.ks[h]? = some k →
        exec (.hKeyDel 1 a n) s = .next (({ s with ks := s.ks.set h { k with valid := false } } : State).withReply .done)
          ∧ (keysUnique s.ks → ksLookup (s.ks.set h { k with valid := false }) .pairwise a 0 = none))
      ∧ (ksLookup s.ks .pairwise a 0 = none → exec (.hKeyDel 1 a n) s = .next (s.withReply .done))
      ∧ (∀ h k, n < 4 → ksLookup s.ks .group a (BitVec.ofNat 2 n) = some h → s.ks[h]? = some k →
        exec (.hKeyDel 0 a n) s = .next (({ s with ks := s.ks.set h { k with valid := false } } : State).withReply .done)
          ∧ (keysUnique s.ks → ksLookup (s.ks.set h { k with valid := false }) .group a (BitVec.ofNat 2 n) = none))
      ∧ ((4 ≤ n ∨ ksLookup s.ks .group a (BitVec.ofNat 2 n) = none) → exec (.hKeyDel 0 a n) s = .next (s.withReply .done))
      ∧ (∀ scope, 2 ≤ scope → exec (.hKeyDel scope a n) s = .next (s.withReply .done))

/-- H.STA_SET: its preconditions, the new entry, and the STATE change of an entry that keeps its address (R347). -/
def Obligations.StaSet : Prop :=
  ∀ (s : State) (i : Nat) (a : Addr) (v : Nat), s.lock = false →
    let taken := ∃ j e, j ≠ i ∧ s.st[j]? = some e ∧ e.valid = true ∧ e.addr = a
    (¬ (1 ≤ i ∧ i < s.st.length ∧ v < 3 ∧ a.b0.getLsbD 0 = false ∧ ¬ taken) →
      exec (.hStaSet i a v) s = .next (s.withReply .refused))
      ∧ (∀ (e : StaEntry) (x : Assoc), 1 ≤ i → s.st[i]? = some e → v = x.code.toNat → a.b0.getLsbD 0 = false → ¬ taken →
        let fresh : StaEntry := { valid := true, addr := a, assoc := x, ps := false, ready := false, q := [] }
        (e.valid = true → e.addr = a →
          exec (.hStaSet i a v) s = .next (({ s with st := s.st.set i { e with assoc := x } } : State).withReply .done))
          ∧ ((e.valid = false ∨ e.addr ≠ a) → e.q = [] →
            exec (.hStaSet i a v) s = .next (({ s with st := s.st.set i fresh } : State).withReply .done))
          ∧ ((e.valid = false ∨ e.addr ≠ a) → e.q ≠ [] →
            exec (.hStaSet i a v) s = .next (s.withReply .refused)))

/-- H.STA_DEL and H.PS_POP: the frames handed back, and what is left of the entry (R348, R350). That an operation whose
precondition fails is refused is the model's reading (log 16). -/
def Obligations.StaDelPsPop : Prop :=
  ∀ (s : State) (i : Nat), s.lock = false →
    exec (.hStaDel 0) s = .next (s.withReply .refused)
      ∧ (s.st.length ≤ i →
        exec (.hStaDel i) s = .next (s.withReply .refused) ∧ exec (.hPsPop i) s = .next (s.withReply .refused))
      ∧ ∀ e : StaEntry, s.st[i]? = some e →
        (1 ≤ i →
          exec (.hStaDel i) s
            = .next (({ s with st := s.st.set i { e with valid := false, ps := false, ready := false, q := [] } }
                : State).withReply (.frames e.q)))
          ∧ (e.valid = false → exec (.hPsPop i) s = .next (s.withReply .refused))
          ∧ (e.valid = true → e.q = [] →
            exec (.hPsPop i) s
              = .next (({ s with st := s.st.set i { e with ready := false } } : State).withReply (.frame none)))
          ∧ (∀ (p : Packet) (rest : List Packet), e.valid = true → e.q = p :: rest →
            exec (.hPsPop i) s
              = .next (({ s with st := s.st.set i { e with ready := false, q := rest } } : State).withReply
                  (.frame (some p))))

/-- H.STA0_PS_CLEAR, H.STAT_READ and the host's reading of a key record (R346, R351, R352). The counters' numbers are the port's
(log 3), the refusal of a number that names no counter is the model's choice (log 23), and so are the reading's place in the
host's schedule, its operand, the refusal of a handle that names no record and the answer none for an invalid one, whose fields
are never read (R410; logs 7, 22). -/
def Obligations.Sta0ClearStatRead : Prop :=
  ∀ s : State, s.lock = false →
    (∀ e0 rest, s.st = e0 :: rest →
      exec .hSta0PsClear s = .next (({ s with st := { e0 with ps := false } :: rest } : State).withReply .done))
      ∧ (∀ (n : Nat) (c : Counter),
        [Counter.malformed, .class2, .class3, .wepUndecryptable, .cipherMismatch, .wepDecryptErr, .tkipDecryptErr, .tkipMicErr,
          .ccmpDecryptErr, .tkipReplay, .ccmpReplay, .psqOverflow, .overrun, .duplicate][n]? = some c →
        exec (.hStatRead n) s = .next (s.withReply (.value (s.stat.get c))))
      ∧ (∀ n, 14 ≤ n → exec (.hStatRead n) s = .next (s.withReply .refused))
      ∧ (∀ (h : Nat) (rest : List HostMove), s.env.port = .readKey h :: rest →
        (∀ k, s.ks[h]? = some k → k.valid = true →
            step s = .next { s with env := { s.env with port := rest, reply := some (.key (some k)) } })
          ∧ (∀ k, s.ks[h]? = some k → k.valid = false →
            step s = .next { s with env := { s.env with port := rest, reply := some (.key none) } })
          ∧ (s.ks.length ≤ h → step s = .next { s with env := { s.env with port := rest, reply := some .refused } }))

/-- During a pass every host operation but H.RESET, the reading of a key record among them, is refused with no effect but the
reply; H.RESET runs at any time, gives every piece of state its reset value, and keeps what is not the block's: its parameters
and the world outside (R86, R340, R346, R354; logs 6, 7, 8, 22). -/
def Obligations.LockedHostRefused : Prop :=
  (∀ (i : Instr) (s : State), isHostOperation i = true → i ≠ .hReset → s.lock = true →
    exec i s = .next { s with env := { s.env with reply := some .refused } })
    ∧ (∀ (s : State) (h : Nat) (rest : List HostMove), s.env.port = .readKey h :: rest → s.lock = true →
      step s = .next { s with env := { s.env with port := rest, reply := some .refused } })
    ∧ ∀ s : State, exec .hReset s = .next ((State.resetWith s.ks.length s.st.length s.par s.env).withReply .done)
end

