-- ==== Sys2Proof/Laws/Decode.lean ====
section
/-! SUPPORT. The number fields, the metadata flags and the masks of the encodings, said once for the statements about decoding. -/
namespace Sys2Proof

/-! ### Number fields (log 3) -/

@[simp] theorem leBytes_length (n v : Nat) : (leBytes n v).length = n := by
  induction n generalizing v with
  | zero => rfl
  | succ k ih => simp [leBytes, ih]

/-- A number that fits its field is read back from it. -/
theorem ofLeBytes_leBytes (n v : Nat) (h : v < 256 ^ n) : ofLeBytes (leBytes n v) = v := by
  induction n generalizing v with
  | zero =>
    simp only [Nat.pow_zero, Nat.lt_one_iff] at h
    simp [leBytes, ofLeBytes, h]
  | succ k ih =>
    have hk : v / 256 < 256 ^ k := by
      rw [Nat.pow_succ] at h
      exact Nat.div_lt_of_lt_mul (by omega)
    simp only [leBytes, ofLeBytes, ih _ hk, BitVec.toNat_ofNat]
    omega

/-- A field's bytes hold a number that fits it. -/
theorem ofLeBytes_lt (b : List Byte) : ofLeBytes b < 256 ^ b.length := by
  induction b with
  | nil => simp [ofLeBytes]
  | cons c r ih =>
    have := c.isLt
    simp only [ofLeBytes, List.length_cons, Nat.pow_succ]
    omega

/-- A field's bytes are those of the number it holds. -/
theorem leBytes_ofLeBytes (b : List Byte) : leBytes b.length (ofLeBytes b) = b := by
  induction b with
  | nil => rfl
  | cons c r ih =>
    have := c.isLt
    simp only [List.length_cons, leBytes, ofLeBytes]
    rw [show (c.toNat + 256 * ofLeBytes r) / 256 = ofLeBytes r by omega, ih]
    congr 1
    apply BitVec.eq_of_toNat_eq
    simp only [BitVec.toNat_ofNat]
    omega

/-! ### Metadata flags (log 3) -/

theorem metaFlags_lt (m : Meta) : (metaFlags m).toNat < 8 := by
  unfold metaFlags
  cases m.crcOk <;> cases m.addrOk <;> cases m.newIcvOk <;> decide

@[simp] theorem metaFlags_crcOk (m : Meta) : (metaFlags m).getLsbD 0 = m.crcOk := by
  unfold metaFlags
  cases m.crcOk <;> cases m.addrOk <;> cases m.newIcvOk <;> decide

@[simp] theorem metaFlags_addrOk (m : Meta) : (metaFlags m).getLsbD 1 = m.addrOk := by
  unfold metaFlags
  cases m.crcOk <;> cases m.addrOk <;> cases m.newIcvOk <;> decide

@[simp] theorem metaFlags_newIcvOk (m : Meta) : (metaFlags m).getLsbD 2 = m.newIcvOk := by
  unfold metaFlags
  cases m.crcOk <;> cases m.addrOk <;> cases m.newIcvOk <;> decide

/-! ### Masks (R121) -/

/-- A mask of the `n` bits from bit `lo` on compares that field of the word. -/
theorem rowHit_field {w : Nat} (x mask pat : BitVec w) (lo n : Nat)
    (hm : ∀ i, i < w → mask.getLsbD i = (decide (lo ≤ i) && decide (i < lo + n)))
    (hp : ∀ i, i < w → mask.getLsbD i = false → pat.getLsbD i = false) :
    rowHit x mask pat = decide (x.extractLsb' lo n = pat.extractLsb' lo n) := by
  unfold rowHit
  rw [beq_eq_decide, decide_eq_decide]
  constructor
  · intro h
    apply BitVec.eq_of_getLsbD_eq
    intro i hi
    have e := congrArg (fun y => y.getLsbD (lo + i)) h
    simp only [BitVec.getLsbD_and] at e
    simp only [BitVec.getLsbD_extractLsb', hi, decide_true, Bool.true_and]
    by_cases hw : lo + i < w
    · rw [hm _ hw] at e
      simpa [hi] using e
    · rw [BitVec.getLsbD_of_ge x _ (by omega), BitVec.getLsbD_of_ge pat _ (by omega)]
  · intro h
    apply BitVec.eq_of_getLsbD_eq
    intro i hi
    rw [BitVec.getLsbD_and]
    cases hb : mask.getLsbD i with
    | false => rw [Bool.and_false, hp i hi hb]
    | true =>
      rw [Bool.and_true]
      have hr := hm i hi
      rw [hb] at hr
      simp only [Bool.true_eq, Bool.and_eq_true, decide_eq_true_eq] at hr
      have e := congrArg (fun y => y.getLsbD (i - lo)) h
      simp only [BitVec.getLsbD_extractLsb'] at e
      rw [decide_eq_true (by omega), Bool.true_and, Bool.true_and, show lo + (i - lo) = i by omega] at e
      exact e

end Sys2Proof
end

