-- ==== Sys2Proof/Laws/State.lean ====
section
/-! SUPPORT. One lemma per field per update of the state, so that no proof unfolds a record update. -/
namespace Sys2Proof.Machine

/-! ### The drop path (R385) -/

@[simp] theorem dropPath_stage (r : Reason) (s : State) : (dropPath r s).stage = .dropped := rfl
@[simp] theorem dropPath_ctx (r : Reason) (s : State) : (dropPath r s).ctx = { s.ctx with reason := some (reasonCode r) } := rfl
@[simp] theorem dropPath_frm (r : Reason) (s : State) : (dropPath r s).frm = none := rfl
@[simp] theorem dropPath_cfg (r : Reason) (s : State) : (dropPath r s).cfg = s.cfg := rfl
@[simp] theorem dropPath_stat (r : Reason) (s : State) : (dropPath r s).stat = (match reasonCounter r with | some c => s.stat.bump c | none => s.stat) := rfl
@[simp] theorem dropPath_ks (r : Reason) (s : State) : (dropPath r s).ks = s.ks := rfl
@[simp] theorem dropPath_st (r : Reason) (s : State) : (dropPath r s).st = s.st := rfl
@[simp] theorem dropPath_lock (r : Reason) (s : State) : (dropPath r s).lock = false := rfl
@[simp] theorem dropPath_out (r : Reason) (s : State) : (dropPath r s).out = s.out ++ [.drop (reasonCode r)] := rfl
@[simp] theorem dropPath_par (r : Reason) (s : State) : (dropPath r s).par = s.par := rfl
@[simp] theorem dropPath_env (r : Reason) (s : State) : (dropPath r s).env = s.env := rfl

/-! ### The reply to the host (log 8) -/

@[simp] theorem State.withReply_stage (s : State) (r : Reply) : (s.withReply r).stage = s.stage := rfl
@[simp] theorem State.withReply_ctx (s : State) (r : Reply) : (s.withReply r).ctx = s.ctx := rfl
@[simp] theorem State.withReply_frm (s : State) (r : Reply) : (s.withReply r).frm = s.frm := rfl
@[simp] theorem State.withReply_cfg (s : State) (r : Reply) : (s.withReply r).cfg = s.cfg := rfl
@[simp] theorem State.withReply_stat (s : State) (r : Reply) : (s.withReply r).stat = s.stat := rfl
@[simp] theorem State.withReply_ks (s : State) (r : Reply) : (s.withReply r).ks = s.ks := rfl
@[simp] theorem State.withReply_st (s : State) (r : Reply) : (s.withReply r).st = s.st := rfl
@[simp] theorem State.withReply_lock (s : State) (r : Reply) : (s.withReply r).lock = s.lock := rfl
@[simp] theorem State.withReply_out (s : State) (r : Reply) : (s.withReply r).out = s.out := rfl
@[simp] theorem State.withReply_par (s : State) (r : Reply) : (s.withReply r).par = s.par := rfl
@[simp] theorem State.withReply_env (s : State) (r : Reply) : (s.withReply r).env = { s.env with reply := some r } := rfl

/-! ### The host's schedule (log 7) -/

@[simp] theorem State.popMove_stage (s : State) : (s.popMove).stage = s.stage := rfl
@[simp] theorem State.popMove_ctx (s : State) : (s.popMove).ctx = s.ctx := rfl
@[simp] theorem State.popMove_frm (s : State) : (s.popMove).frm = s.frm := rfl
@[simp] theorem State.popMove_cfg (s : State) : (s.popMove).cfg = s.cfg := rfl
@[simp] theorem State.popMove_stat (s : State) : (s.popMove).stat = s.stat := rfl
@[simp] theorem State.popMove_ks (s : State) : (s.popMove).ks = s.ks := rfl
@[simp] theorem State.popMove_st (s : State) : (s.popMove).st = s.st := rfl
@[simp] theorem State.popMove_lock (s : State) : (s.popMove).lock = s.lock := rfl
@[simp] theorem State.popMove_out (s : State) : (s.popMove).out = s.out := rfl
@[simp] theorem State.popMove_par (s : State) : (s.popMove).par = s.par := rfl
@[simp] theorem State.popMove_env (s : State) : (s.popMove).env = { s.env with port := s.env.port.drop 1 } := rfl

/-! ### The acceptance of a frame (R310) -/

@[simp] theorem acceptFrame_stage (b : List Byte) (n : Nat) (m : Meta) (s : State) : (acceptFrame b n m s).stage = .raw := rfl
@[simp] theorem acceptFrame_ctx (b : List Byte) (n : Nat) (m : Meta) (s : State) : (acceptFrame b n m s).ctx = { Ctx.empty with wlen := some (saturatedWlen n) } := rfl
@[simp] theorem acceptFrame_frm (b : List Byte) (n : Nat) (m : Meta) (s : State) : (acceptFrame b n m s).frm = some (Frame.submit b m) := rfl
@[simp] theorem acceptFrame_cfg (b : List Byte) (n : Nat) (m : Meta) (s : State) : (acceptFrame b n m s).cfg = s.cfg := rfl
@[simp] theorem acceptFrame_stat (b : List Byte) (n : Nat) (m : Meta) (s : State) : (acceptFrame b n m s).stat = s.stat := rfl
@[simp] theorem acceptFrame_ks (b : List Byte) (n : Nat) (m : Meta) (s : State) : (acceptFrame b n m s).ks = s.ks := rfl
@[simp] theorem acceptFrame_st (b : List Byte) (n : Nat) (m : Meta) (s : State) : (acceptFrame b n m s).st = s.st := rfl
@[simp] theorem acceptFrame_lock (b : List Byte) (n : Nat) (m : Meta) (s : State) : (acceptFrame b n m s).lock = true := rfl
@[simp] theorem acceptFrame_out (b : List Byte) (n : Nat) (m : Meta) (s : State) : (acceptFrame b n m s).out = s.out := rfl
@[simp] theorem acceptFrame_par (b : List Byte) (n : Nat) (m : Meta) (s : State) : (acceptFrame b n m s).par = s.par := rfl
@[simp] theorem acceptFrame_env (b : List Byte) (n : Nat) (m : Meta) (s : State) : (acceptFrame b n m s).env = s.env := rfl

/-! ### Reset (R52) -/

@[simp] theorem State.resetWith_stage (k n : Nat) (p : Params) (e : Env) : (State.resetWith k n p e).stage = .idle := rfl
@[simp] theorem State.resetWith_ctx (k n : Nat) (p : Params) (e : Env) : (State.resetWith k n p e).ctx = Ctx.empty := rfl
@[simp] theorem State.resetWith_frm (k n : Nat) (p : Params) (e : Env) : (State.resetWith k n p e).frm = none := rfl
@[simp] theorem State.resetWith_cfg (k n : Nat) (p : Params) (e : Env) : (State.resetWith k n p e).cfg = Cfg.reset := rfl
@[simp] theorem State.resetWith_stat (k n : Nat) (p : Params) (e : Env) : (State.resetWith k n p e).stat = Stats.reset := rfl
@[simp] theorem State.resetWith_ks (k n : Nat) (p : Params) (e : Env) : (State.resetWith k n p e).ks = List.replicate k KeyRec.invalid := rfl
@[simp] theorem State.resetWith_st (k n : Nat) (p : Params) (e : Env) : (State.resetWith k n p e).st = resetStations n := rfl
@[simp] theorem State.resetWith_lock (k n : Nat) (p : Params) (e : Env) : (State.resetWith k n p e).lock = false := rfl
@[simp] theorem State.resetWith_out (k n : Nat) (p : Params) (e : Env) : (State.resetWith k n p e).out = [] := rfl
@[simp] theorem State.resetWith_par (k n : Nat) (p : Params) (e : Env) : (State.resetWith k n p e).par = p := rfl
@[simp] theorem State.resetWith_env (k n : Nat) (p : Params) (e : Env) : (State.resetWith k n p e).env = e := rfl

/-! ### Frames (R27, R74 to R78) -/

@[simp] theorem Frame.write_buf (f : Frame) (off : Nat) (v : List Byte) : (f.write off v).buf = overlay f.buf (f.head + off) v := rfl
@[simp] theorem Frame.write_head (f : Frame) (off : Nat) (v : List Byte) : (f.write off v).head = f.head := rfl
@[simp] theorem Frame.write_len (f : Frame) (off : Nat) (v : List Byte) : (f.write off v).len = f.len := rfl
@[simp] theorem Frame.write_info (f : Frame) (off : Nat) (v : List Byte) : (f.write off v).info = f.info := rfl

@[simp] theorem Frame.advance_buf (f : Frame) (n : Nat) : (f.advance n).buf = f.buf := rfl
@[simp] theorem Frame.advance_head (f : Frame) (n : Nat) : (f.advance n).head = f.head + n := rfl
@[simp] theorem Frame.advance_len (f : Frame) (n : Nat) : (f.advance n).len = f.len - n := rfl
@[simp] theorem Frame.advance_info (f : Frame) (n : Nat) : (f.advance n).info = f.info := rfl

@[simp] theorem Frame.truncate_buf (f : Frame) (n : Nat) : (f.truncate n).buf = f.buf := rfl
@[simp] theorem Frame.truncate_head (f : Frame) (n : Nat) : (f.truncate n).head = f.head := rfl
@[simp] theorem Frame.truncate_len (f : Frame) (n : Nat) : (f.truncate n).len = f.len - n := rfl
@[simp] theorem Frame.truncate_info (f : Frame) (n : Nat) : (f.truncate n).info = f.info := rfl

@[simp] theorem Frame.replace_buf (f : Frame) (b : List Byte) : (f.replace b).buf = b := rfl
@[simp] theorem Frame.replace_head (f : Frame) (b : List Byte) : (f.replace b).head = 0 := rfl
@[simp] theorem Frame.replace_len (f : Frame) (b : List Byte) : (f.replace b).len = b.length := rfl
@[simp] theorem Frame.replace_info (f : Frame) (b : List Byte) : (f.replace b).info = f.info := rfl

@[simp] theorem Frame.submit_buf (b : List Byte) (m : Meta) : (Frame.submit b m).buf = b := rfl
@[simp] theorem Frame.submit_head (b : List Byte) (m : Meta) : (Frame.submit b m).head = 0 := rfl
@[simp] theorem Frame.submit_len (b : List Byte) (m : Meta) : (Frame.submit b m).len = b.length := rfl
@[simp] theorem Frame.submit_info (b : List Byte) (m : Meta) : (Frame.submit b m).info = m := rfl

@[simp] theorem Frame.packet_bytes (f : Frame) : f.packet.bytes = f.live := rfl
@[simp] theorem Frame.packet_info (f : Frame) : f.packet.info = f.info := rfl

/-! ### Stations (R348) -/

@[simp] theorem staDeleted_valid (e : StaEntry) : (staDeleted e).valid = false := rfl
@[simp] theorem staDeleted_q (e : StaEntry) : (staDeleted e).q = [] := rfl
@[simp] theorem staDeleted_addr (e : StaEntry) : (staDeleted e).addr = e.addr := rfl
@[simp] theorem staDeleted_assoc (e : StaEntry) : (staDeleted e).assoc = e.assoc := rfl

end Sys2Proof.Machine
end

