-- ==== Sys2Proof/Laws/Ops.lean ====
section
/-! SUPPORT. What the shared operations do, said once: how actions compose and end, one lemma per operation for the case that
completes and one for the case that does not, and the relations that an operation keeps between its start and its ends. -/
namespace Sys2Proof.Machine

variable {α β : Type}

/-! ### Composition -/

/-- The library's `EStateM.run_bind` and `EStateM.run_pure` take a `do` apart; this is the case that completes. -/
theorem run_bind_of_ok {m : Act α} {f : α → Act β} {s t : State} {a : α} (h : m.run s = .ok a t) :
    (m >>= f).run s = (f a).run t := by rw [EStateM.run_bind, h]

/-- And the case that ends early. -/
theorem run_bind_of_error {m : Act α} {f : α → Act β} {s t : State} {e : Stop} (h : m.run s = .error e t) :
    (m >>= f).run s = .error e t := by rw [EStateM.run_bind, h]

/-! ### How an operation ends as a step (R385, R386) -/

theorem finish_of_ok {m : Act Unit} {s t : State} (h : m.run s = .ok () t) : finish m s = .next t := by simp [finish, h]

theorem finish_of_raise {m : Act Unit} {s t : State} {r : Reason} (h : m.run s = .error (.raise r) t) :
    finish m s = .next (dropPath r t) := by simp [finish, h]

theorem finish_of_stuck {m : Act Unit} {s t : State} {f : Fault} (h : m.run s = .error (.stuck f) t) :
    finish m s = .fault f := by simp [finish, h]

/-- A next state comes from completion or from the drop path; nothing else. -/
theorem finish_next_iff {m : Act Unit} {s t : State} :
    finish m s = .next t ↔ m.run s = .ok () t ∨ ∃ r u, m.run s = .error (.raise r) u ∧ t = dropPath r u := by
  unfold finish
  split <;> rename_i h <;> simp [h, eq_comm]

/-- No operation of the pipeline is refused. -/
theorem finish_not_refused (m : Act Unit) (s : State) (r : Refusal) : finish m s ≠ .refused r := by
  unfold finish
  split <;> simp

/-! ### The operations that always complete -/

@[simp] theorem writeCtx_apply (f : Ctx → Ctx) (s : State) : (writeCtx f).run s = .ok () { s with ctx := f s.ctx } := rfl
@[simp] theorem look_apply (f : State → α) (s : State) : (look f).run s = .ok (f s) s := rfl
@[simp] theorem setStage_apply (x : Stage) (s : State) : (setStage x).run s = .ok () { s with stage := x } := rfl
@[simp] theorem unlock_apply (s : State) : unlock.run s = .ok () { s with lock := false } := rfl
@[simp] theorem emit_apply (e : Event) (s : State) : (emit e).run s = .ok () { s with out := s.out ++ [e] } := rfl
@[simp] theorem count_apply (c : Counter) (s : State) : (count c).run s = .ok () { s with stat := s.stat.bump c } := rfl
@[simp] theorem setFrame_apply (x : Option Frame) (s : State) : (setFrame x).run s = .ok () { s with frm := x } := rfl
@[simp] theorem updateReplay_apply (h : Nat) (lo : BitVec 16) (hi : BitVec 32) (s : State) :
    (updateReplay h lo hi).run s = .ok () { s with ks := s.ks.modify h fun k => { k with tscLo := lo, tscHi := hi } } := rfl

/-! ### The operations that end early -/

@[simp] theorem raise_apply (r : Reason) (s : State) : (raise r).run s = .error (.raise r) s := rfl
@[simp] theorem stuck_apply (f : Fault) (s : State) : (stuck f).run s = .error (.stuck f) s := rfl

theorem require_apply (c : Bool) (r : Reason) (s : State) :
    (require c r).run s = if c then .ok () s else .error (.raise r) s := rfl

@[simp] theorem require_true {c : Bool} (h : c = true) (r : Reason) (s : State) : (require c r).run s = .ok () s := by
  simp [require_apply, h]

@[simp] theorem require_false {c : Bool} (h : c = false) (r : Reason) (s : State) :
    (require c r).run s = .error (.raise r) s := by simp [require_apply, h]

/-! ### Reads, where the value is there -/

@[simp] theorem demand_some (f : Fault) (a : α) (s : State) : (demand f (some a)).run s = .ok a s := rfl

theorem readCtx_apply (r : CtxReg) (get : Ctx → Option α) (s : State) :
    (readCtx r get).run s = match get s.ctx with | some a => .ok a s | none => .error (.stuck (.ctxUnwritten r)) s := rfl

@[simp] theorem readCtx_some {r : CtxReg} {get : Ctx → Option α} {s : State} {a : α} (h : get s.ctx = some a) :
    (readCtx r get).run s = .ok a s := by simp [readCtx_apply, h]

@[simp] theorem theFrame_some {s : State} {f : Frame} (h : s.frm = some f) : theFrame.run s = .ok f s := by
  simp [theFrame, EStateM.run, h]

@[simp] theorem frmLen_some {s : State} {f : Frame} (h : s.frm = some f) : frmLen.run s = .ok f.len s := by
  simp [frmLen, EStateM.run, h]

@[simp] theorem keyAt_some {h : Nat} {s : State} {k : KeyRec} (e : s.ks[h]? = some k) : (keyAt h).run s = .ok k s := by
  simp [keyAt, EStateM.run, e]

theorem theKey_some {h : Nat} {s : State} {k : KeyRec} (hk : s.ctx.key = some h) (e : s.ks[h]? = some k) :
    theKey.run s = .ok k s := by simp [theKey, EStateM.run, hk, e]

@[simp] theorem staAt_some {i : Nat} {s : State} {e : StaEntry} (h : s.st[i]? = some e) : (staAt i).run s = .ok e s := by
  simp [staAt, EStateM.run, h]

theorem modifySta_some {i : Nat} {s : State} {e : StaEntry} (h : s.st[i]? = some e) (f : StaEntry → StaEntry) :
    (modifySta i f).run s = .ok () { s with st := s.st.modify i f } := by
  have : i < s.st.length := by
    rw [List.getElem?_eq_some_iff] at h
    exact h.1
  simp [modifySta, EStateM.run, this]

@[simp] theorem theStation_some {s : State} {i : Nat} (h : s.ctx.sta = some (some i)) : theStation.run s = .ok i s := by
  simp [theStation, EStateM.run, h]

/-- The environment's next listed answer (log 2). -/
theorem submitFrame_listed {s : State} {x : Answer} {rest : List Answer} (f : Frame) (h : s.env.answers = x :: rest) :
    (submitFrame f).run s
      = .ok x { s with env := { s.env with answers := rest, submitted := s.env.submitted ++ [f.packet] } } := by
  simp only [submitFrame, EStateM.run]
  split
  · rename_i a b e
    rw [h] at e
    injection e with e1 e2
    rw [e1, e2]
  · rename_i e
    rw [h] at e
    cases e

/-- A free answer, when the environment lists none (R357, log 2). -/
theorem submitFrame_free {s : State} (f : Frame) (h : s.env.answers = []) :
    (submitFrame f).run s
      = .ok (match Config.reassemblerAnswer s.env.freeCount with | some b => .complete b | none => .incomplete)
          { s with env := { s.env with freeCount := s.env.freeCount + 1, submitted := s.env.submitted ++ [f.packet] } } := by
  simp only [submitFrame, EStateM.run]
  split
  · rename_i a b e
    rw [h] at e
    cases e
  · rfl

theorem replaceFrame_some {s : State} {f : Frame} (b : List Byte) (h : s.frm = some f) :
    (replaceFrame b).run s = .ok () { s with frm := some (f.replace b) } := by
  simp [replaceFrame, EStateM.run, h]

/-! ### One entry of a table -/

/-- Changing an entry that is there is setting it. -/
theorem modify_eq_set {γ : Type} {l : List γ} {i : Nat} {a : γ} (h : l[i]? = some a) (f : γ → γ) :
    l.modify i f = l.set i (f a) := by
  obtain ⟨hi, ha⟩ := List.getElem?_eq_some_iff.1 h
  apply List.ext_getElem?
  intro j
  rw [List.getElem?_modify, List.getElem?_set]
  by_cases hj : i = j
  · subst hj
    simp [hi, ha]
  · simp [hj]

/-! ### Host operations (R340) -/

/-- Between passes a host operation does what its rule says. -/
theorem hostOp_free {f : State → State} {s : State} (h : s.lock = false) : hostOp f s = .next (f s) := by simp [hostOp, h]

/-- During a pass it is refused with no effect but the reply. -/
theorem hostOp_locked {f : State → State} {s : State} (h : s.lock = true) : hostOp f s = .next (s.withReply .refused) := by
  simp [hostOp, h]

@[simp] theorem KeyRec.readable_valid {k : KeyRec} (h : k.valid = true) : k.readable = some k := by simp [KeyRec.readable, h]

/-- No field of an invalid record is read (R410). -/
@[simp] theorem KeyRec.readable_invalid {k : KeyRec} (h : k.valid = false) : k.readable = none := by simp [KeyRec.readable, h]

/-- All that the reading of a key record can do: it answers, and nothing else of the state changes (R346, R340). -/
theorem keyReadMove_eq (handle : Nat) (s : State) :
    keyReadMove handle s
      = .next (s.withReply (if s.lock then .refused else (s.ks[handle]?).elim .refused fun k => .key k.readable)) := by
  unfold keyReadMove hostOp hostKeyRead
  cases s.lock <;> cases s.ks[handle]? <;> rfl

/-! ### Relations between the start of an operation and its ends -/

/-- Whether the action completes or raises, its end is related to its start by `R`. -/
def Act.Rel (R : State → State → Prop) (m : Act α) : Prop :=
  ∀ s, (∀ a t, m.run s = .ok a t → R s t) ∧ ∀ r t, m.run s = .error (.raise r) t → R s t

theorem rel_mono {R S : State → State → Prop} (h : ∀ s t, R s t → S s t) {m : Act α} (hm : m.Rel R) : m.Rel S :=
  fun s => ⟨fun a t e => h s t ((hm s).1 a t e), fun r t e => h s t ((hm s).2 r t e)⟩

theorem rel_bind {R : State → State → Prop} (trans : ∀ s t u, R s t → R t u → R s u) {m : Act α} {f : α → Act β}
    (hm : m.Rel R) (hf : ∀ a, (f a).Rel R) : (m >>= f).Rel R := by
  intro s
  rw [EStateM.run_bind]
  cases hx : m.run s with
  | ok a t =>
    have ht := (hm s).1 a t hx
    exact ⟨fun b u e => trans s t u ht ((hf a t).1 b u e), fun r u e => trans s t u ht ((hf a t).2 r u e)⟩
  | error e t =>
    refine ⟨fun b u h => (by cases h), fun r u h => ?_⟩
    cases h
    exact (hm s).2 r _ hx

/-- The raise of a sequence whose first part keeps a relation, whatever the last part does when it completes (R386). -/
theorem raise_bind {R : State → State → Prop} (trans : ∀ s t u, R s t → R t u → R s u) {m : Act α} {f : α → Act β}
    (hm : m.Rel R) (hf : ∀ a s r t, (f a).run s = .error (.raise r) t → R s t) :
    ∀ s r t, (m >>= f).run s = .error (.raise r) t → R s t := by
  intro s r t h
  rw [EStateM.run_bind] at h
  cases hx : m.run s with
  | ok a u =>
    rw [hx] at h
    exact trans s u t ((hm s).1 a u hx) (hf a u r t h)
  | error e u =>
    rw [hx] at h
    cases h
    exact (hm s).2 r _ hx

/-- An action that leaves the state alone, whatever it answers. -/
theorem rel_of_same {R : State → State → Prop} (refl : ∀ s, R s s) {m : Act α}
    (h : ∀ s, (∃ a, m.run s = .ok a s) ∨ ∃ e, m.run s = .error e s) : m.Rel R := by
  intro s
  obtain ⟨a, e⟩ | ⟨x, e⟩ := h s
  · refine ⟨fun b t h => ?_, fun r t h => ?_⟩ <;> rw [e] at h <;> cases h
    exact refl s
  · refine ⟨fun b t h => ?_, fun r t h => ?_⟩ <;> rw [e] at h <;> cases h
    exact refl s

theorem rel_pure {R : State → State → Prop} (refl : ∀ s, R s s) (a : α) : (pure a : Act α).Rel R :=
  rel_of_same refl fun _ => .inl ⟨a, rfl⟩

theorem rel_raise {R : State → State → Prop} (refl : ∀ s, R s s) (r : Reason) : (raise r).Rel R :=
  rel_of_same refl fun _ => .inr ⟨.raise r, rfl⟩

theorem rel_stuck {R : State → State → Prop} (f : Fault) : (stuck f).Rel R :=
  fun s => ⟨fun _ _ h => (by cases h), fun _ _ h => (by cases h)⟩

theorem rel_require {R : State → State → Prop} (refl : ∀ s, R s s) (c : Bool) (r : Reason) : (require c r).Rel R :=
  rel_of_same refl fun s => by
    cases c
    · exact .inr ⟨.raise r, rfl⟩
    · exact .inl ⟨(), rfl⟩

theorem rel_demand {R : State → State → Prop} (refl : ∀ s, R s s) (f : Fault) (o : Option α) : (demand f o).Rel R :=
  rel_of_same refl fun s => by
    cases o with
    | none => exact .inr ⟨.stuck f, rfl⟩
    | some a => exact .inl ⟨a, rfl⟩

theorem rel_readCtx {R : State → State → Prop} (refl : ∀ s, R s s) (r : CtxReg) (get : Ctx → Option α) :
    (readCtx r get).Rel R :=
  rel_of_same refl fun s => by
    rw [readCtx_apply]
    split
    · exact .inl ⟨_, rfl⟩
    · exact .inr ⟨_, rfl⟩

theorem rel_look {R : State → State → Prop} (refl : ∀ s, R s s) (f : State → α) : (look f).Rel R :=
  rel_of_same refl fun s => .inl ⟨f s, rfl⟩

theorem rel_theFrame {R : State → State → Prop} (refl : ∀ s, R s s) : theFrame.Rel R :=
  rel_of_same refl fun s => by
    simp only [theFrame, EStateM.run]
    split
    · exact .inl ⟨_, rfl⟩
    · exact .inr ⟨_, rfl⟩

theorem rel_frmLen {R : State → State → Prop} (refl : ∀ s, R s s) : frmLen.Rel R :=
  rel_of_same refl fun s => by
    simp only [frmLen, EStateM.run]
    split
    · exact .inl ⟨_, rfl⟩
    · exact .inr ⟨_, rfl⟩

theorem rel_memRead {R : State → State → Prop} (refl : ∀ s, R s s) (off n : Nat) : (memRead off n).Rel R :=
  rel_of_same refl fun s => by
    simp only [memRead, EStateM.run]
    split
    · exact .inr ⟨_, rfl⟩
    · split
      · exact .inr ⟨_, rfl⟩
      · split
        · exact .inr ⟨_, rfl⟩
        · exact .inl ⟨_, rfl⟩

theorem rel_keyAt {R : State → State → Prop} (refl : ∀ s, R s s) (h : Nat) : (keyAt h).Rel R :=
  rel_of_same refl fun s => by
    simp only [keyAt, EStateM.run]
    split
    · exact .inl ⟨_, rfl⟩
    · exact .inr ⟨_, rfl⟩

theorem rel_theKey {R : State → State → Prop} (refl : ∀ s, R s s) : theKey.Rel R :=
  rel_of_same refl fun s => by
    simp only [theKey, EStateM.run]
    split
    · exact .inr ⟨_, rfl⟩
    · split
      · exact .inl ⟨_, rfl⟩
      · exact .inr ⟨_, rfl⟩

theorem rel_staAt {R : State → State → Prop} (refl : ∀ s, R s s) (i : Nat) : (staAt i).Rel R :=
  rel_of_same refl fun s => by
    simp only [staAt, EStateM.run]
    split
    · exact .inl ⟨_, rfl⟩
    · exact .inr ⟨_, rfl⟩

theorem rel_theStation {R : State → State → Prop} (refl : ∀ s, R s s) : theStation.Rel R :=
  rel_of_same refl fun s => by
    simp only [theStation, EStateM.run]
    split
    · exact .inr ⟨_, rfl⟩
    · exact .inr ⟨_, rfl⟩
    · exact .inl ⟨_, rfl⟩

theorem rel_requireTa {R : State → State → Prop} (refl : ∀ s, R s s) : requireTa.Rel R :=
  rel_of_same refl fun s => by
    simp only [requireTa, EStateM.run]
    split
    · exact .inl ⟨_, rfl⟩
    · exact .inr ⟨_, rfl⟩

/-- An action that always completes with one written state. -/
theorem rel_of_write {R : State → State → Prop} {m : Act Unit} {g : State → State} (h : ∀ s, m.run s = .ok () (g s))
    (hg : ∀ s, R s (g s)) : m.Rel R := by
  intro s
  refine ⟨fun a t e => ?_, fun r t e => ?_⟩ <;> rw [h s] at e <;> cases e
  exact hg s

/-- A write of the frame space changes nothing but FRM (R75). -/
theorem memWrite_ok {off : Nat} {v : List Byte} {s t : State} (h : (memWrite off v).run s = .ok () t) :
    ∃ f, s.frm = some f ∧ off + v.length ≤ f.len ∧ f.head + off + v.length ≤ f.buf.length
      ∧ t = { s with frm := some (f.write off v) } := by
  simp only [memWrite, EStateM.run] at h
  split at h
  · cases h
  · rename_i f hf
    split at h
    · cases h
    · split at h
      · cases h
      · injection h with _ h
        exact ⟨f, hf, by omega, by omega, h.symm⟩

/-- A raise of MemWrite is the bounds rule's and leaves the state alone (R75). -/
theorem memWrite_raise {off : Nat} {v : List Byte} {s t : State} {r : Reason} (h : (memWrite off v).run s = .error (.raise r) t) :
    t = s ∧ r = .malformedTruncated ∧ ∃ f, s.frm = some f ∧ f.len < off + v.length := by
  simp only [memWrite, EStateM.run] at h
  split at h
  · cases h
  · rename_i f hf
    split at h
    · injection h with h1 h2
      injection h1 with h1
      exact ⟨h2.symm, h1.symm, f, hf, by omega⟩
    · split at h
      · cases h
      · cases h

theorem rel_memWrite {R : State → State → Prop} (refl : ∀ s, R s s) (hf : ∀ s f off v, s.frm = some f →
    f.head + off + v.length ≤ f.buf.length → R s { s with frm := some (f.write off v) }) (off : Nat) (v : List Byte) :
    (memWrite off v).Rel R := by
  intro s
  refine ⟨fun a t h => ?_, fun r t h => ?_⟩
  · obtain ⟨f, h1, _, h3, rfl⟩ := memWrite_ok h
    exact hf s f off v h1 h3
  · rw [(memWrite_raise h).1]
    exact refl s

theorem rel_advanceHead {R : State → State → Prop} (refl : ∀ s, R s s)
    (hf : ∀ s f n, s.frm = some f → n ≤ f.len → R s { s with frm := some (f.advance n) }) (n : Nat) :
    (advanceHead n).Rel R := by
  intro s
  simp only [advanceHead, EStateM.run]
  split
  · exact ⟨fun _ _ h => (by cases h), fun _ _ h => (by cases h)⟩
  · rename_i f e
    split
    · refine ⟨fun _ _ h => (by cases h), fun _ _ h => ?_⟩
      cases h
      exact refl s
    · refine ⟨fun a t h => ?_, fun _ _ h => (by cases h)⟩
      cases h
      exact hf s f n e (by omega)

theorem rel_truncateTail {R : State → State → Prop} (refl : ∀ s, R s s)
    (hf : ∀ s f n, s.frm = some f → n ≤ f.len → R s { s with frm := some (f.truncate n) }) (n : Nat) :
    (truncateTail n).Rel R := by
  intro s
  simp only [truncateTail, EStateM.run]
  split
  · exact ⟨fun _ _ h => (by cases h), fun _ _ h => (by cases h)⟩
  · rename_i f e
    split
    · refine ⟨fun _ _ h => (by cases h), fun _ _ h => ?_⟩
      cases h
      exact refl s
    · refine ⟨fun a t h => ?_, fun _ _ h => (by cases h)⟩
      cases h
      exact hf s f n e (by omega)

theorem rel_replaceFrame {R : State → State → Prop}
    (hf : ∀ s f b, s.frm = some f → R s { s with frm := some (f.replace b) }) (b : List Byte) :
    (replaceFrame b).Rel R := by
  intro s
  simp only [replaceFrame, EStateM.run]
  split
  · exact ⟨fun _ _ h => (by cases h), fun _ _ h => (by cases h)⟩
  · rename_i f e
    refine ⟨fun a t h => ?_, fun _ _ h => (by cases h)⟩
    cases h
    exact hf s f b e

theorem rel_modifySta {R : State → State → Prop} (i : Nat) (g : StaEntry → StaEntry)
    (hf : ∀ s, R s { s with st := s.st.modify i g }) : (modifySta i g).Rel R := by
  intro s
  simp only [modifySta, EStateM.run]
  split
  · refine ⟨fun a t h => ?_, fun _ _ h => (by cases h)⟩
    cases h
    exact hf s
  · exact ⟨fun _ _ h => (by cases h), fun _ _ h => (by cases h)⟩

theorem rel_submitFrame {R : State → State → Prop} (hf : ∀ s e, R s { s with env := e }) (f : Frame) :
    (submitFrame f).Rel R := by
  intro s
  simp only [submitFrame, EStateM.run]
  split <;> refine ⟨fun a t h => ?_, fun _ _ h => (by cases h)⟩ <;> cases h <;> exact hf s _

/-- Where DEC.CCMP raises it has not modified the frame: the drop path is taken with FRM as it was (R228, R386). -/
theorem opDecCcmp_raise_frm {s t : State} {r : Reason} (h : opDecCcmp.run s = .error (.raise r) t) : t.frm = s.frm := by
  let R : State → State → Prop := fun s t => t.frm = s.frm
  have refl : ∀ s, R s s := fun _ => rfl
  have trans : ∀ s t u, R s t → R t u → R s u := fun _ _ _ h1 h2 => h2.trans h1
  have hdrlen : readHdrlen.Rel R := rel_bind trans (rel_readCtx refl _ _) fun _ => rel_pure refl _
  have write : ∀ g, (writeCtx g).Rel R := fun g => rel_of_write (writeCtx_apply g) fun _ => rfl
  revert h
  exact raise_bind (R := R) trans (rel_readCtx refl _ _) (fun _ =>
    raise_bind trans (rel_require refl _ _) fun _ => raise_bind trans hdrlen fun _ => raise_bind trans (rel_frmLen refl) fun _ =>
    raise_bind trans (rel_require refl _ _) fun _ => raise_bind trans (rel_memRead refl _ _) fun _ =>
    raise_bind trans (rel_readCtx refl _ _) fun _ => raise_bind trans (write _) fun _ =>
    raise_bind trans (rel_memRead refl _ _) fun _ => raise_bind trans (rel_memRead refl _ _) fun _ =>
    raise_bind trans (rel_theKey refl) fun _ => raise_bind trans (write _) fun _ =>
    raise_bind trans (rel_require refl _ _) fun _ _ _ _ h => by rw [(memWrite_raise h).1]) s r t

/-- A step of an operation: its end, completed or dropped, is related to its start. -/
theorem finish_rel {R : State → State → Prop} {m : Act Unit} (hm : m.Rel R)
    {s t : State} (h : finish m s = .next t) : R s t ∨ ∃ r u, R s u ∧ t = dropPath r u := by
  obtain e | ⟨r, u, e, rfl⟩ := finish_next_iff.1 h
  · exact .inl ((hm s).1 _ _ e)
  · exact .inr ⟨r, u, (hm s).2 _ _ e, rfl⟩

end Sys2Proof.Machine
end

