-- ==== Sys2Proof/Laws/Memory.lean ====
section
/-! SUPPORT. The frame space (R27, R70 to R78): a live byte after each operation on a frame, and the memory's form, which every
memory operation keeps. -/
namespace Sys2Proof.Machine

/-! ### Live bytes -/

theorem Frame.byte?_eq_live (f : Frame) (off : Nat) : f.byte? off = f.live[off]? := by
  unfold Frame.byte? Frame.live
  rw [List.getElem?_take, List.getElem?_drop]

theorem Frame.live_length {f : Frame} (h : f.head + f.len ≤ f.buf.length) : f.live.length = f.len := by
  simp only [Frame.live, List.length_take, List.length_drop]
  omega

theorem Frame.slice_eq_live (f : Frame) {off n : Nat} (h : off + n ≤ f.len) : f.slice off n = (f.live.drop off).take n := by
  unfold Frame.slice Frame.live
  rw [List.drop_take, List.take_take, List.drop_drop]
  congr 1
  omega

theorem Frame.slice_length {f : Frame} {off n : Nat} (h : f.head + off + n ≤ f.buf.length) : (f.slice off n).length = n := by
  simp only [Frame.slice, List.length_take, List.length_drop]
  omega

theorem Frame.slice_getElem? (f : Frame) {off n i : Nat} (h : off + n ≤ f.len) (hi : i < n) :
    (f.slice off n)[i]? = f.byte? (off + i) := by
  rw [Frame.slice_eq_live f h, List.getElem?_take_of_lt hi, List.getElem?_drop, Frame.byte?_eq_live]

/-- Byte `i` of a slice is byte `off + i` of the live bytes. -/
theorem byteAt_slice (f : Frame) {off n i : Nat} (h : off + n ≤ f.len) (hi : i < n) :
    byteAt (f.slice off n) i = byteAt f.live (off + i) := by
  unfold byteAt
  rw [List.getD_eq_getElem?_getD, List.getD_eq_getElem?_getD, Frame.slice_getElem? f h hi, Frame.byte?_eq_live]

/-- A slice that ends where the frame ends. -/
theorem Frame.slice_tail {f : Frame} (hw : f.head + f.len ≤ f.buf.length) {off n : Nat} (h : off + n = f.len) :
    f.slice off n = f.live.drop off := by
  rw [Frame.slice_eq_live f (by omega), List.take_of_length_le]
  rw [List.length_drop, Frame.live_length hw]
  omega

/-- Four live bytes as a number, the first the least significant (R12). -/
theorem le32_slice {f : Frame} {o : Nat} (h : o + 4 ≤ f.len) :
    le32 (f.slice o 4) = byteAt f.live (o + 3) ++ byteAt f.live (o + 2) ++ byteAt f.live (o + 1) ++ byteAt f.live o := by
  unfold le32
  rw [byteAt_slice f h (by omega), byteAt_slice f h (by omega), byteAt_slice f h (by omega), byteAt_slice f h (by omega)]
  rfl

/-! ### Writes -/

theorem overlay_length {buf v : List Byte} {k : Nat} (h : k + v.length ≤ buf.length) :
    (overlay buf k v).length = buf.length := by
  simp only [overlay, List.length_append, List.length_take, List.length_drop]
  omega

theorem overlay_getElem? {buf v : List Byte} {k : Nat} (h : k + v.length ≤ buf.length) (j : Nat) :
    (overlay buf k v)[j]? = if k ≤ j ∧ j < k + v.length then v[j - k]? else buf[j]? := by
  have hk : (buf.take k).length = k := by simp only [List.length_take]; omega
  unfold overlay
  rw [List.append_assoc, List.getElem?_append, hk]
  split
  · rename_i h1
    rw [if_neg (by omega), List.getElem?_take_of_lt h1]
  · rename_i h1
    rw [List.getElem?_append]
    split
    · rename_i h2
      rw [if_pos (by omega)]
    · rename_i h2
      rw [if_neg (by omega), List.getElem?_drop]
      congr 1
      omega

/-- A live byte after a write (R75). -/
theorem Frame.byte?_write {f : Frame} {off : Nat} {v : List Byte} (hv : off + v.length ≤ f.len)
    (hb : f.head + off + v.length ≤ f.buf.length) (i : Nat) :
    (f.write off v).byte? i = if off ≤ i ∧ i < off + v.length then v[i - off]? else f.byte? i := by
  unfold Frame.byte?
  simp only [Frame.write_buf, Frame.write_head, Frame.write_len]
  rw [overlay_getElem? hb]
  by_cases hi : i < f.len
  · simp only [hi, if_true]
    by_cases hr : off ≤ i ∧ i < off + v.length
    · rw [if_pos hr, if_pos (by omega)]
      congr 1
      omega
    · rw [if_neg hr, if_neg (by omega)]
  · simp only [hi, if_false]
    rw [if_neg (by omega)]

/-- The live bytes after a write (R75). -/
theorem Frame.live_write {f : Frame} (hw : f.head + f.len ≤ f.buf.length) {off : Nat} {v : List Byte}
    (h : off + v.length ≤ f.len) : (f.write off v).live = overlay f.live off v := by
  have hl := Frame.live_length hw
  apply List.ext_getElem?
  intro i
  rw [← Frame.byte?_eq_live, Frame.byte?_write h (by omega), overlay_getElem? (by omega), Frame.byte?_eq_live]

/-- A live byte after the head has moved (R76). -/
theorem Frame.byte?_advance (f : Frame) (n i : Nat) : (f.advance n).byte? i = f.byte? (n + i) := by
  unfold Frame.byte?
  simp only [Frame.advance_buf, Frame.advance_head, Frame.advance_len]
  have h : (i < f.len - n) = (n + i < f.len) := propext (by omega)
  simp only [h, Nat.add_assoc]

/-- A live byte after the tail has been cut (R78). -/
theorem Frame.byte?_truncate (f : Frame) (n i : Nat) :
    (f.truncate n).byte? i = if i < f.len - n then f.byte? i else none := by
  unfold Frame.byte?
  simp only [Frame.truncate_buf, Frame.truncate_head, Frame.truncate_len]
  by_cases h : i < f.len - n
  · have h' : i < f.len := by omega
    simp only [h, h', if_true]
  · simp only [h, if_false]

/-- A live byte of a replaced frame (R77). -/
theorem Frame.byte?_replace (f : Frame) (b : List Byte) (i : Nat) : (f.replace b).byte? i = b[i]? := by
  unfold Frame.byte?
  simp only [Frame.replace_buf, Frame.replace_head, Frame.replace_len, Nat.zero_add]
  split
  · rfl
  · rename_i h
    rw [List.getElem?_eq_none (by omega)]

/-- A live byte of a submitted frame (R310). -/
theorem Frame.byte?_submit (b : List Byte) (m : Meta) (i : Nat) : (Frame.submit b m).byte? i = b[i]? := by
  unfold Frame.byte?
  simp only [Frame.submit_buf, Frame.submit_head, Frame.submit_len, Nat.zero_add]
  split
  · rfl
  · rename_i h
    rw [List.getElem?_eq_none (by omega)]

/-! ### The memory operations where the bounds rule decides (R74, R75, R76) -/

section Bounds
variable {s : State} {f : Frame} {off n : Nat} {v : List Byte}

theorem memRead_of_fits (hf : s.frm = some f) (hw : f.head + f.len ≤ f.buf.length) (h : off + n ≤ f.len) :
    (memRead off n).run s = .ok (f.slice off n) s := by
  simp only [memRead, EStateM.run, hf]
  rw [if_neg (by omega), if_neg (by omega)]

theorem memRead_of_short (hf : s.frm = some f) (h : f.len < off + n) :
    (memRead off n).run s = .error (.raise .malformedTruncated) s := by
  simp [memRead, EStateM.run, hf, h]

theorem memWrite_of_fits (hf : s.frm = some f) (hw : f.head + f.len ≤ f.buf.length) (h : off + v.length ≤ f.len) :
    (memWrite off v).run s = .ok () { s with frm := some (f.write off v) } := by
  simp only [memWrite, EStateM.run, hf]
  rw [if_neg (by omega), if_neg (by omega)]

theorem memWrite_of_short (hf : s.frm = some f) (h : f.len < off + v.length) :
    (memWrite off v).run s = .error (.raise .malformedTruncated) s := by
  simp [memWrite, EStateM.run, hf, h]

theorem advanceHead_of_fits (hf : s.frm = some f) (h : n ≤ f.len) :
    (advanceHead n).run s = .ok () { s with frm := some (f.advance n) } := by
  simp only [advanceHead, EStateM.run, hf]
  rw [if_neg (by omega)]

/-- The frame-control word is the first two live bytes, the first the less significant (R80, R102). -/
theorem readFc_of_fits (hf : s.frm = some f) (hw : f.head + f.len ≤ f.buf.length) (h : 2 ≤ f.len) :
    readFc.run s = .ok (byteAt f.live 1 ++ byteAt f.live 0) s := by
  simp only [readFc, EStateM.run_bind, memRead_of_fits hf hw (off := 0) (n := 2) (by omega), EStateM.run_pure, le16]
  rw [byteAt_slice f (by omega) (by omega), byteAt_slice f (by omega) (by omega)]

theorem readFc_of_short (hf : s.frm = some f) (h : f.len < 2) :
    readFc.run s = .error (.raise .malformedTruncated) s := by
  simp only [readFc, EStateM.run_bind, memRead_of_short hf (off := 0) (n := 2) (by omega)]

/-- An address field is six live bytes in frame order (R15, R80). -/
theorem readAddr_of_fits (hf : s.frm = some f) (hw : f.head + f.len ≤ f.buf.length) (h : off + 6 ≤ f.len) :
    (readAddr off).run s = .ok ⟨byteAt f.live off, byteAt f.live (off + 1), byteAt f.live (off + 2), byteAt f.live (off + 3),
      byteAt f.live (off + 4), byteAt f.live (off + 5)⟩ s := by
  simp only [readAddr, EStateM.run_bind, memRead_of_fits hf hw h, EStateM.run_pure, addrOf]
  rw [byteAt_slice f h (by omega), byteAt_slice f h (by omega), byteAt_slice f h (by omega), byteAt_slice f h (by omega),
    byteAt_slice f h (by omega), byteAt_slice f h (by omega), Nat.add_zero]

theorem readAddr_of_short (hf : s.frm = some f) (h : f.len < off + 6) :
    (readAddr off).run s = .error (.raise .malformedTruncated) s := by
  simp only [readAddr, EStateM.run_bind, memRead_of_short hf h]

end Bounds

/-! ### The memory's form (log 10) -/

@[simp] theorem wf_none : Memory.wf none = true := rfl

theorem wf_some {f : Frame} : Memory.wf (some f) = true ↔ f.head + f.len ≤ f.buf.length := by simp [Memory.wf]

theorem wf_write {f : Frame} {off : Nat} {v : List Byte} (h : Memory.wf (some f) = true)
    (hb : f.head + off + v.length ≤ f.buf.length) : Memory.wf (some (f.write off v)) = true := by
  rw [wf_some] at h ⊢
  simpa [overlay_length hb] using h

theorem wf_advance {f : Frame} {n : Nat} (h : Memory.wf (some f) = true) (hn : n ≤ f.len) :
    Memory.wf (some (f.advance n)) = true := by
  rw [wf_some] at h ⊢
  simp only [Frame.advance_buf, Frame.advance_head, Frame.advance_len]
  omega

theorem wf_truncate {f : Frame} {n : Nat} (h : Memory.wf (some f) = true) : Memory.wf (some (f.truncate n)) = true := by
  rw [wf_some] at h ⊢
  simp only [Frame.truncate_buf, Frame.truncate_head, Frame.truncate_len]
  omega

theorem wf_replace (f : Frame) (b : List Byte) : Memory.wf (some (f.replace b)) = true := by simp [wf_some]

theorem wf_submit (b : List Byte) (m : Meta) : Memory.wf (some (Frame.submit b m)) = true := by simp [wf_some]

/-- The memory after reset is in form. -/
theorem wf_reset : Memory.wf State.reset.frm = true := rfl

/-- Every memory operation keeps the memory's form, whether it completes or raises. -/
abbrev KeepsForm (s t : State) : Prop := Memory.wf s.frm = true → Memory.wf t.frm = true

theorem memRead_keeps_form (off n : Nat) : (memRead off n).Rel KeepsForm := rel_memRead (fun _ h => h) off n

theorem memWrite_keeps_form (off : Nat) (v : List Byte) : (memWrite off v).Rel KeepsForm :=
  rel_memWrite (fun _ h => h) (fun _ _ _ _ e hb h => wf_write (by simpa [e] using h) hb) off v

theorem advanceHead_keeps_form (n : Nat) : (advanceHead n).Rel KeepsForm :=
  rel_advanceHead (fun _ h => h) (fun _ _ _ e hn h => wf_advance (by simpa [e] using h) hn) n

theorem truncateTail_keeps_form (n : Nat) : (truncateTail n).Rel KeepsForm :=
  rel_truncateTail (fun _ h => h) (fun _ _ _ e _ h => wf_truncate (by simpa [e] using h)) n

theorem replaceFrame_keeps_form (b : List Byte) : (replaceFrame b).Rel KeepsForm :=
  rel_replaceFrame (fun _ f b _ _ => wf_replace f b) b

/-- The cells of a frame stand at strictly rising addresses. -/
theorem Frame.cells_rising (f : Frame) : f.cells.Pairwise fun a b => a.1 < b.1 := by
  unfold Frame.cells
  rw [List.pairwise_map]
  have h := List.pairwise_lt_range' (s := 0) (n := f.live.length) (step := 1)
  rw [← List.zipIdx_map_snd 0 f.live, List.pairwise_map] at h
  exact h

end Sys2Proof.Machine
end

