-- ==== Sys2Proof/Laws/Tables.lean ====
section
/-! SUPPORT. The lookups of the key store and the station table (R36, R37, R42, R43), said once: what a record that answers is,
what a found index says, and when nothing is found. -/
namespace Sys2Proof.Machine

/-! ### The key store -/

/-- What it is for a record to answer a lookup (R36). -/
theorem answers_iff (k : KeyRec) (sc : Scope) (a : Addr) (i : BitVec 2) :
    k.answers sc a i = true ↔ k.valid = true ∧ k.scope = sc ∧ k.addr = a ∧ (sc = .group → k.kidx = i) := by
  unfold KeyRec.answers
  cases sc <;> simp [and_assoc]

/-- The record found answers, and no record before it does. -/
theorem ksLookup_some {ks : List KeyRec} {sc : Scope} {a : Addr} {i : BitVec 2} {h : Nat} (e : ksLookup ks sc a i = some h) :
    ∃ k, ks[h]? = some k ∧ k.answers sc a i = true
      ∧ ∀ j k', j < h → ks[j]? = some k' → k'.answers sc a i = false := by
  unfold ksLookup at e
  rw [List.findIdx?_eq_some_iff_getElem] at e
  obtain ⟨hl, h1, h2⟩ := e
  refine ⟨ks[h], List.getElem?_eq_getElem hl, h1, ?_⟩
  intro j k' hj hk
  obtain ⟨hj', rfl⟩ := List.getElem?_eq_some_iff.1 hk
  simpa using h2 j hj

/-- The first record that answers is found. -/
theorem ksLookup_of {ks : List KeyRec} {sc : Scope} {a : Addr} {i : BitVec 2} {h : Nat} {k : KeyRec} (hk : ks[h]? = some k)
    (ha : k.answers sc a i = true) (hf : ∀ j k', j < h → ks[j]? = some k' → k'.answers sc a i = false) :
    ksLookup ks sc a i = some h := by
  unfold ksLookup
  rw [List.findIdx?_eq_some_iff_getElem]
  obtain ⟨hl, rfl⟩ := List.getElem?_eq_some_iff.1 hk
  refine ⟨hl, ha, ?_⟩
  intro j hj
  simpa using hf j _ hj (List.getElem?_eq_getElem (by omega))

/-- Nothing is found exactly when no record answers. -/
theorem ksLookup_none {ks : List KeyRec} {sc : Scope} {a : Addr} {i : BitVec 2} :
    ksLookup ks sc a i = none ↔ ∀ k ∈ ks, k.answers sc a i = false := by
  unfold ksLookup
  rw [List.findIdx?_eq_none_iff]

/-- Two records that answer one lookup are the same key. -/
theorem sameKey_of_answers {x y : KeyRec} {sc : Scope} {a : Addr} {i : BitVec 2} (hx : x.answers sc a i = true)
    (hy : y.answers sc a i = true) :
    (x.scope == y.scope && x.addr == y.addr && (x.scope == .pairwise || x.kidx == y.kidx)) = true := by
  rw [answers_iff] at hx hy
  obtain ⟨-, a1, a2, a3⟩ := hx
  obtain ⟨-, b1, b2, b3⟩ := hy
  rw [a1, a2, b1, b2]
  cases sc
  · simp [a3 rfl, b3 rfl]
  · simp

/-! ### The station table -/

/-- The entry found is a valid one of the address, and never entry 0 (R42). -/
theorem stLookup_some {st : List StaEntry} {a : Addr} {j : Nat} (e : stLookup st a = some j) :
    1 ≤ j ∧ ∃ x, st[j]? = some x ∧ x.valid = true ∧ x.addr = a
      ∧ ∀ i x', 1 ≤ i → i < j → st[i]? = some x' → ¬ (x'.valid = true ∧ x'.addr = a) := by
  unfold stLookup at e
  rw [Option.map_eq_some_iff] at e
  obtain ⟨i, hi, rfl⟩ := e
  rw [List.findIdx?_eq_some_iff_getElem] at hi
  obtain ⟨hl, h1, h2⟩ := hi
  simp only [Bool.and_eq_true, beq_iff_eq] at h1
  refine ⟨by omega, (st.drop 1)[i], ?_, h1.1, h1.2, ?_⟩
  · rw [← List.getElem?_eq_getElem hl, List.getElem?_drop, Nat.add_comm]
  · intro k x' hk1 hk2 hx hc
    have hk3 : k - 1 < (st.drop 1).length := by omega
    have hx' : (st.drop 1)[k - 1]? = some x' := by
      rw [List.getElem?_drop, ← hx]
      congr 1
      omega
    have := h2 (k - 1) (by omega)
    obtain ⟨_, e'⟩ := List.getElem?_eq_some_iff.1 hx'
    rw [e'] at this
    simp [hc.1, hc.2] at this

/-- Nothing is found exactly when no entry after entry 0 is a valid one of the address. -/
theorem stLookup_none {st : List StaEntry} {a : Addr} :
    stLookup st a = none ↔ ∀ e ∈ st.drop 1, ¬ (e.valid = true ∧ e.addr = a) := by
  unfold stLookup
  rw [Option.map_eq_none_iff, List.findIdx?_eq_none_iff]
  simp

/-- A lookup sees of an entry only VALID and ADDR, so a change to anything else leaves it alone. -/
theorem stLookup_congr {st st' : List StaEntry} (h : st.map (fun e => (e.valid, e.addr)) = st'.map fun e => (e.valid, e.addr))
    (a : Addr) : stLookup st a = stLookup st' a := by
  have key : ∀ l : List StaEntry, ((l.drop 1).findIdx? fun e => e.valid && e.addr == a)
      = (((l.map fun e => (e.valid, e.addr)).drop 1).findIdx? fun p => p.1 && p.2 == a) := by
    intro l
    rw [← List.map_drop, List.findIdx?_map]
    rfl
  unfold stLookup
  rw [key, key, h]

end Sys2Proof.Machine
end

