-- ==== Sys2Proof/Tests/Slice0.lean ====
section
/-! SUPPORT. Tests: ill-formed terms, one written-out word per instruction, one-step tests from spec/95_test_vectors.md (the
vector is named where there is one), and for every statement with hypotheses the states that meet them. -/
namespace Sys2Proof.Tests

open Sys2Proof.Machine

/-! ### Small states -/

/-- The addresses of the spec's vectors. -/
def us : Addr := ⟨0x02, 0, 0, 0, 0, 0x01⟩
def bss : Addr := ⟨0x02, 0, 0, 0, 0, 0xAA⟩
def src : Addr := ⟨0x02, 0, 0, 0, 0, 0x55⟩
def s1 : Addr := ⟨0x02, 0, 0, 0, 0, 0x11⟩
def s2 : Addr := ⟨0x02, 0, 0, 0, 0, 0x22⟩
def mc : Addr := ⟨0x01, 0, 0x5E, 0, 0, 0x01⟩
def info : Meta := ⟨7, 8, 9, true, false, true, 1000⟩

/-- A frame of exactly its live bytes, and one that stands behind two spent bytes and before one. -/
def frame (b : List Byte) : Frame := Frame.submit b info
def inside (b : List Byte) : Frame := { buf := [0xEE, 0xEE] ++ b ++ [0xDD], head := 2, len := b.length, info := info }

/-- An 802.11 header of 24 bytes with the given frame-control bytes, addresses and sequence control. -/
def header (fc0 fc1 : Byte) (a1 a2 a3 : Addr) (sc : Byte) : List Byte :=
  [fc0, fc1, 0, 0] ++ a1.toList ++ a2.toList ++ a3.toList ++ [sc, 0]

/-- A pass in progress on a device of four keys and four stations. -/
def base : State := State.resetWith 4 4 Params.named Env.quiet
def during (g : Stage) (c : Ctx) (b : List Byte) : State := { base with stage := g, lock := true, ctx := c, frm := some (frame b) }

def nextOf (o : Host.Outcome State Fault Refusal) : Option State :=
  match o with
  | .next t => some t
  | .fault _ | .refused _ => none

/-- What most tests look at: the stage, the reason, the events and the live bytes. -/
structure View where
  stage : Stage
  reason : Option (BitVec 5)
  out : List Event
  bytes : Option (List Byte)
deriving DecidableEq, Repr

def view (o : Host.Outcome State Fault Refusal) : Option View :=
  (nextOf o).map fun t => ⟨t.stage, t.ctx.reason, t.out, t.frm.map Frame.live⟩

def ctxOf (o : Host.Outcome State Fault Refusal) : Option Ctx := (nextOf o).map State.ctx
def droppedWith (o : Host.Outcome State Fault Refusal) (n : BitVec 5) (c : Option Counter) : Bool :=
  match nextOf o with
  | some t => t.stage == .dropped && t.ctx.reason == some n && t.frm.isNone && !t.lock
      && (match c with | some c => t.stat.get c == 1 | none => t.stat == Stats.reset)
  | none => false
def replyOf (o : Host.Outcome State Fault Refusal) : Option Reply := (nextOf o).bind fun t => t.env.reply

/-! ### Well-formedness: an ill-formed term for each check -/

theorem test_wellFormed_hFrameIn_wlen : (Instr.hFrameIn [] (2 ^ 32) info).wellFormed = false := by decide
theorem test_wellFormed_hCfgWrite_reg : (Instr.hCfgWrite 256 0).wellFormed = false := by decide
theorem test_wellFormed_hCfgWrite_value : (Instr.hCfgWrite 0 (2 ^ 64)).wellFormed = false := by decide
theorem test_wellFormed_hKeySet_scope : (Instr.hKeySet 256 us 0 0 [] 0 0).wellFormed = false := by decide
theorem test_wellFormed_hKeySet_kidx : (Instr.hKeySet 0 us 256 0 [] 0 0).wellFormed = false := by decide
theorem test_wellFormed_hKeySet_suite : (Instr.hKeySet 0 us 0 256 [] 0 0).wellFormed = false := by decide
theorem test_wellFormed_hKeySet_tscLo : (Instr.hKeySet 0 us 0 0 [] (2 ^ 32) 0).wellFormed = false := by decide
theorem test_wellFormed_hKeySet_tscHi : (Instr.hKeySet 0 us 0 0 [] 0 (2 ^ 64)).wellFormed = false := by decide
theorem test_wellFormed_hKeyDel_scope : (Instr.hKeyDel 256 us 0).wellFormed = false := by decide
theorem test_wellFormed_hKeyDel_kidx : (Instr.hKeyDel 0 us 256).wellFormed = false := by decide
theorem test_wellFormed_hStaSet_i : (Instr.hStaSet (2 ^ 32) us 0).wellFormed = false := by decide
theorem test_wellFormed_hStaSet_assoc : (Instr.hStaSet 1 us 256).wellFormed = false := by decide
theorem test_wellFormed_hStaDel_i : (Instr.hStaDel (2 ^ 32)).wellFormed = false := by decide
theorem test_wellFormed_hPsPop_i : (Instr.hPsPop (2 ^ 32)).wellFormed = false := by decide
theorem test_wellFormed_hStatRead_name : (Instr.hStatRead 256).wellFormed = false := by decide

/-- Every field at the last value the encoding admits (the hypothesis of DecodeEncodeAgree). -/
theorem witness_DecodeEncodeAgree :
    (Instr.hFrameIn [1] (2 ^ 32 - 1) info).wellFormed = true ∧ (Instr.hCfgWrite 255 (2 ^ 64 - 1)).wellFormed = true
      ∧ (Instr.hKeySet 255 us 255 255 [1] (2 ^ 32 - 1) (2 ^ 64 - 1)).wellFormed = true
      ∧ (Instr.hKeyDel 255 us 255).wellFormed = true ∧ (Instr.hStaSet (2 ^ 32 - 1) us 255).wellFormed = true
      ∧ (Instr.hStaDel (2 ^ 32 - 1)).wellFormed = true ∧ (Instr.hPsPop (2 ^ 32 - 1)).wellFormed = true
      ∧ (Instr.hStatRead 255).wellFormed = true ∧ Instr.lenchk.wellFormed = true ∧ Instr.xltWds.wellFormed = true := by decide

/-! ### Decoding: a word written out for every row (R102, R103, R112, R121, R122; the operand layout of a HOSTCMD is log 3) -/

theorem test_decode_sequencer_rows :
    decode (.seq .lenchk) = .ok .lenchk ∧ decode (.seq .classify) = .ok .classify ∧ decode (.seq .apctl) = .ok .apctl
      ∧ decode (.seq .route) = .ok .route ∧ decode (.seq (.psqPush 2)) = .ok (.psqPush 2)
      ∧ decode (.seq .ivparse) = .ok .ivparse ∧ decode (.seq .keysel) = .ok .keysel
      ∧ decode (.seq .keyselBcast) = .ok .keyselBcast ∧ decode (.seq .cipherchk) = .ok .cipherchk
      ∧ decode (.seq .strip) = .ok .strip ∧ decode (.seq .rplchk) = .ok .rplchk ∧ decode (.seq .defrag) = .ok .defrag
      ∧ decode (.seq .hdrxlt) = .ok .hdrxlt ∧ decode (.seq .mgmtDispatch) = .ok .mgmtDispatch
      ∧ decode (.seq .deliver) = .ok .deliver ∧ decode (.seq (.drop .class2)) = .ok (.drop .class2) := by
  refine ⟨rfl, rfl, rfl, rfl, rfl, rfl, rfl, rfl, rfl, rfl, rfl, rfl, rfl, rfl, rfl, rfl⟩

/-- The `type` rows: `fc[3:2]` (V-CLS-5, V-CLS-6, V-CLS-1, V-CLS-10, V-CLS-11). -/
theorem test_decode_type_rows :
    decode (.fc16 .type 0b0000000010000000) = .ok .clsMgmt ∧ decode (.fc16 .type 0b0000000011010100) = .ok .clsCtrl
      ∧ decode (.fc16 .type 0b0100001000001000) = .ok .clsData ∧ decode (.fc16 .type 0b0000000000001100) = .ok .clsRsvd
      ∧ decode (.fc16 .type 0b0100001000001011) = .ok .clsData := by refine ⟨rfl, rfl, rfl, rfl, rfl⟩

/-- The `pspoll` row: type 1 and subtype 10, nothing else (V-CLS-3, V-CLS-4, V-CLS-7, V-CLS-8). -/
theorem test_decode_pspoll_row :
    decode (.fc16 .pspoll 0b0000000010100100) = .ok .clsPspoll ∧ decode (.fc16 .pspoll 0b0001000010100100) = .ok .clsPspoll
      ∧ decode (.fc16 .pspoll 0b0000000010100000) = .error .notPspoll
      ∧ decode (.fc16 .pspoll 0b0000000010101000) = .error .notPspoll := by refine ⟨rfl, rfl, rfl, rfl⟩

/-- The `hdrlen` and `xlt-addr` rows: ToDS is bit 8, FromDS bit 9 (V-CLS-2, V-XLT-1 to V-XLT-4). -/
theorem test_decode_ds_rows :
    decode (.fc16 .hdrlen 0b0000001100001000) = .ok .hdrA4 ∧ decode (.fc16 .hdrlen 0b0000000100001000) = .ok .hdrA3
      ∧ decode (.fc16 .xltAddr 0b0000000000001000) = .ok .xltIbss ∧ decode (.fc16 .xltAddr 0b0000001000001000) = .ok .xltFromap
      ∧ decode (.fc16 .xltAddr 0b0000000100001000) = .ok .xltToap
      ∧ decode (.fc16 .xltAddr 0b0000001100001000) = .ok .xltWds := by refine ⟨rfl, rfl, rfl, rfl, rfl, rfl⟩

/-- STA3 is found, STATE; PSW3 is IS_PSPOLL, PM, PS; KSEL1 is condition (a); SUITE2 is CTX.SUITE (R121). -/
theorem test_decode_small_words :
    decode (.sta3 0b000) = .ok .apctlDeauth ∧ decode (.sta3 0b100) = .ok .apctlDeauth
      ∧ decode (.sta3 0b101) = .ok .apctlDisassoc ∧ decode (.sta3 0b110) = .error .passesOn
      ∧ decode (.sta3 0b111) = .error .reservedState
      ∧ decode (.psw3 0b101) = .ok .apctlPspoll ∧ decode (.psw3 0b001) = .ok .apctlPswake
      ∧ decode (.psw3 0b010) = .ok .apctlPsset ∧ decode (.psw3 0b011) = .ok .apctlPsset
      ∧ decode (.psw3 0b000) = .ok .apctlPsnop
      ∧ decode (.ksel1 0b1) = .ok .keyselPw ∧ decode (.ksel1 0b0) = .ok .keyselGrp
      ∧ decode (.suite2 0b00) = .ok .decNone ∧ decode (.suite2 0b01) = .ok .decWep ∧ decode (.suite2 0b10) = .ok .decTkip
      ∧ decode (.suite2 0b11) = .ok .decCcmp := by
  refine ⟨rfl, rfl, rfl, rfl, rfl, rfl, rfl, rfl, rfl, rfl, rfl, rfl, rfl, rfl, rfl, rfl⟩

/-- The `route` rows have no bits (R121). -/
theorem test_decode_route_rows :
    decode (.rte .nosta) = .ok .routeNosta ∧ decode (.rte .mcq) = .ok .routeMcq ∧ decode (.rte .flood) = .ok .routeFlood
      ∧ decode (.rte .ucq) = .ok .routeUcq ∧ decode (.rte .ucrelay) = .ok .routeUcrelay
      ∧ decode (.rte .toStack) = .ok .routeLocal := by refine ⟨rfl, rfl, rfl, rfl, rfl, rfl⟩

/-- The `xlt-snap` rows (V-XLT-1, V-XLT-3, V-XLT-5, V-XLT-6, V-XLT-10, V-XLT-8). -/
theorem test_decode_snap_rows :
    decode (.snap8 0x80F3 0xAAAA0300000086DD) = .ok .xltPass ∧ decode (.snap8 0x80F3 0xAAAA030000F88137) = .ok .xltLen
      ∧ decode (.snap8 0x80F3 0xAAAA030000008137) = .ok .xltLen ∧ decode (.snap8 0x80F3 0xAAAA0300000080F3) = .ok .xltLen
      ∧ decode (.snap8 0xF380 0xAAAA0300000080F3) = .ok .xltPass
      ∧ decode (.snap8 0x80F3 0xE0E003FFFF001E00) = .ok .xltRaw := by refine ⟨rfl, rfl, rfl, rfl, rfl, rfl⟩

theorem test_decode_hFrameIn :
    decode (.hostcmd [0x01, 78, 1, 0, 0, 7, 8, 9, 0b101, 0xE8, 3, 0, 0, 0, 0, 0, 0, 0xA4, 0x00])
      = .ok (.hFrameIn [0xA4, 0x00] 334 info) := by rfl
theorem test_decode_hCfgWrite :
    decode (.hostcmd [0x02, 4, 0x02, 0, 0, 0, 0, 0xAA, 0, 0]) = .ok (.hCfgWrite 4 0xAA0000000002) := by rfl
theorem test_decode_hKeySet :
    decode (.hostcmd [0x03, 1, 2, 0, 0, 0, 0, 0x11, 0, 3, 6, 0, 0, 0, 1, 0, 0, 0, 0, 0, 0, 0, 0x0A, 0x0B])
      = .ok (.hKeySet 1 s1 0 3 [0x0A, 0x0B] 6 1) := by rfl
theorem test_decode_hKeyDel :
    decode (.hostcmd [0x04, 0, 2, 0, 0, 0, 0, 0xAA, 3]) = .ok (.hKeyDel 0 bss 3) := by rfl
theorem test_decode_hStaSet :
    decode (.hostcmd [0x05, 2, 0, 0, 0, 2, 0, 0, 0, 0, 0x22, 1]) = .ok (.hStaSet 2 s2 1) := by rfl
theorem test_decode_host_short :
    decode (.hostcmd [0x06, 3, 0, 0, 0]) = .ok (.hStaDel 3) ∧ decode (.hostcmd [0x07, 2, 0, 0, 0]) = .ok (.hPsPop 2)
      ∧ decode (.hostcmd [0x08]) = .ok .hSta0PsClear ∧ decode (.hostcmd [0x09, 11]) = .ok (.hStatRead 11)
      ∧ decode (.hostcmd [0x0A]) = .ok .hReset := by refine ⟨rfl, rfl, rfl, rfl, rfl⟩
/-- V-H-14, and transactions that are too short, too long or empty. -/
theorem test_decode_host_rejected :
    decode (.hostcmd [0x0B]) = .error .unknownHostCode ∧ decode (.hostcmd [0x00]) = .error .unknownHostCode
      ∧ decode (.hostcmd []) = .error .emptyTransaction ∧ decode (.hostcmd [0x06, 3]) = .error .badOperands
      ∧ decode (.hostcmd [0x0A, 0]) = .error .badOperands := by refine ⟨rfl, rfl, rfl, rfl, rfl⟩
/-- Words given as the table numbers their bits. -/
theorem test_decodeTableWord :
    decodeTableWord 8 0x0A = some .hReset ∧ decodeTableWord 16 0x0008 = some .clsData
      ∧ decodeTableWord 16 0x0200 = some .xltFromap ∧ decodeTableWord 64 0xAAAA030000000000 = some .xltPass := by
  refine ⟨rfl, rfl, rfl, rfl⟩

/-! ### The classifier -/

def lenState (w : BitVec 12) (l : Nat) : State :=
  { base with stage := .raw, lock := true, ctx := { Ctx.empty with wlen := some w },
              frm := some { buf := [], head := 0, len := l, info := info } }

/-- V-LEN-2, V-LEN-3. -/
theorem test_lenchk_accepts :
    (nextOf (exec .lenchk (lenState 32 14))).map State.stage = some .lengthValidated
      ∧ (nextOf (exec .lenchk (lenState 2364 2346))).map State.stage = some .lengthValidated := by decide
/-- V-LEN-1, V-LEN-4, V-LEN-5, V-LEN-6, V-LEN-7, V-LEN-8. -/
theorem test_lenchk_drops :
    droppedWith (exec .lenchk (lenState 31 100)) 1 (some .malformed)
      ∧ droppedWith (exec .lenchk (lenState 2365 2346)) 1 (some .malformed)
      ∧ droppedWith (exec .lenchk (lenState 40 13)) 1 (some .malformed)
      ∧ droppedWith (exec .lenchk (lenState 2364 2347)) 1 (some .malformed)
      ∧ droppedWith (exec .lenchk (lenState 4095 100)) 1 (some .malformed)
      ∧ droppedWith (exec .lenchk (lenState 31 13)) 1 (some .malformed) := by decide

def classifyState (b : List Byte) : State := during .lengthValidated { Ctx.empty with wlen := some 60 } b
def fromAp : List Byte := header 0x08 0x42 us bss src 0x10

/-- V-CLS-1 on a whole header: TA is Addr2. -/
theorem test_classify_data :
    ctxOf (exec .classify (classifyState (fromAp ++ [1, 2])))
      = some { Ctx.empty with wlen := some 60, fc := some 0x4208, tag := some .data, isWep := some true, isFrag := some false,
                              isMcast := some false, isPspoll := some false, hdrlen := some 24, ta := some bss } := by decide
/-- V-CLS-18 with a PS-Poll word and a group Addr1; 14 bytes, so no TA; and V-CLS-10. -/
theorem test_classify_control_and_reserved :
    ctxOf (exec .classify (classifyState [0xA4, 0x04, 0, 0, 0x33, 0, 0, 0, 0, 1, 2, 3, 4, 5]))
        = some { Ctx.empty with wlen := some 60, fc := some 0x04A4, tag := some .ctrl, isWep := some false, isFrag := some true,
                                isMcast := some true, isPspoll := some true, hdrlen := some 24 }
      ∧ droppedWith (exec .classify (classifyState ([0x0C, 0x00] ++ List.replicate 22 0))) 2 (some .malformed)
      ∧ droppedWith (exec .classify (classifyState ([0x08, 0x03] ++ List.replicate 27 0))) 3 (some .malformed) := by decide
theorem test_classifier_rows :
    (ctxOf (exec .clsMgmt base)).bind Ctx.tag = some .mgmt ∧ (ctxOf (exec .clsCtrl base)).bind Ctx.tag = some .ctrl
      ∧ (ctxOf (exec .clsData base)).bind Ctx.tag = some .data ∧ droppedWith (exec .clsRsvd base) 2 (some .malformed)
      ∧ (ctxOf (exec .clsPspoll base)).bind Ctx.isPspoll = some true ∧ (ctxOf (exec .hdrA4 base)).bind Ctx.hdrlen = some 30
      ∧ (ctxOf (exec .hdrA3 base)).bind Ctx.hdrlen = some 24 := by decide

/-! ### The access-point filter -/

def packet : Packet := { bytes := [1, 2, 3], info := info }
def sta (a : Addr) (x : Assoc) (ps : Bool) (q : List Packet) : StaEntry :=
  { valid := true, addr := a, assoc := x, ps := ps, ready := true, q := q }
def table (e1 e2 : StaEntry) : List StaEntry := [StaEntry.virtual, e1, e2, StaEntry.invalid]

/-- A classified frame from S2 in access-point mode; S1 and S2 have entries 1 and 2. -/
def apState (fc : BitVec 16) (poll : Bool) (e : StaEntry) : State :=
  { during .classified
      { Ctx.empty with fc := some fc, tag := some .data, isWep := some false, isFrag := some false, isMcast := some false,
                       isPspoll := some poll, hdrlen := some 24, ta := some s2 }
      (header 0x08 0x01 bss s2 s1 0 ++ [0xAA, 0xAA, 3, 0, 0, 0, 8, 0, 5, 6])
    with cfg := { Cfg.reset with apMode := true, bssid := bss }, st := table (sta s1 .associated false []) e }

/-- V-AP-1 (another address), V-AP-2, V-AP-3. -/
theorem test_apctl_class_rules :
    view (exec .apctl (apState 0x0108 false (sta src .associated false [])))
        = some ⟨.dropped, some 13, [.actionDeauth s2 6, .drop 13], none⟩
      ∧ view (exec .apctl (apState 0x0108 false (sta s2 .unauthenticated false [])))
        = some ⟨.dropped, some 13, [.actionDeauth s2 6, .drop 13], none⟩
      ∧ view (exec .apctl (apState 0x0108 false (sta s2 .authenticated false [])))
        = some ⟨.dropped, some 14, [.actionDisassoc s2 7, .drop 14], none⟩ := by decide
/-- V-AP-4, V-AP-6, V-AP-7, V-AP-9. -/
theorem test_apctl_power_save :
    (nextOf (exec .apctl (apState 0x0108 true (sta s2 .associated true [packet])))).map (fun t => (t.stage, t.st[2]?, t.out))
        = some (.apFiltered, some (sta s2 .associated true [packet]), [.psDeliverOne 2])
      ∧ (nextOf (exec .apctl (apState 0x0108 false (sta s2 .associated true [packet])))).map (fun t => (t.st[2]?, t.out))
        = some (some { sta s2 .associated false [] with ready := false }, [.psFlush 2 [packet]])
      ∧ (nextOf (exec .apctl (apState 0x1108 false (sta s2 .associated false [])))).map
          (fun t => (t.st[2]?.map StaEntry.ps, t.st[0]?.map StaEntry.ps))
        = some (some true, some true)
      ∧ (nextOf (exec .apctl (apState 0x0108 false (sta s2 .associated false [])))).map (fun t => (t.st, t.out))
        = some (table (sta s1 .associated false []) (sta s2 .associated false []), []) := by decide
def onStation (s : State) : State := { s with ctx := { s.ctx with sta := some (some 2) } }
theorem test_apctl_rows :
    view (exec .apctlDeauth (apState 0x0108 false (sta s2 .associated false [])))
        = some ⟨.dropped, some 13, [.actionDeauth s2 6, .drop 13], none⟩
      ∧ view (exec .apctlDisassoc (apState 0x0108 false (sta s2 .associated false [])))
        = some ⟨.dropped, some 14, [.actionDisassoc s2 7, .drop 14], none⟩
      ∧ (nextOf (exec .apctlPspoll (onStation (apState 0 true { sta s2 .associated true [] with ready := false })))).map
          (fun t => (t.st[2]?.map StaEntry.ready, t.out)) = some (some true, [.psDeliverOne 2])
      ∧ (nextOf (exec .apctlPswake (onStation (apState 0 true (sta s2 .associated true [packet, packet]))))).map State.out
        = some [.psFlush 2 [packet, packet]]
      ∧ (nextOf (exec .apctlPsset (onStation (apState 0 true (sta s2 .associated false []))))).map
          (fun t => t.st.map StaEntry.ps) = some [true, false, true, false]
      ∧ nextOf (exec .apctlPsnop base) = some base := by decide

/-- A translated frame for `da` in access-point mode, with PSQ_CAP = 1 (the vectors of ROUTE). -/
def routeState (da : Addr) (e0 e1 e2 : StaEntry) : State :=
  { during .headerTranslated { Ctx.empty with da := some da, sa := some s1, tag := some .data } [9, 9]
    with cfg := { Cfg.reset with apMode := true, bssid := bss }, par := { psqCap := 1, sttType2 := 0x80F3 },
         st := [e0, e1, e2] }
def e0 : StaEntry := StaEntry.virtual
def st1 : StaEntry := sta s1 .associated false []
def st2 : StaEntry := sta s2 .associated false []
def moved : Packet := { bytes := [9, 9], info := info }
def routeOf (o : Host.Outcome State Fault Refusal) : Option (Option Route × Option Bool × Bool) :=
  (nextOf o).map fun t => (t.ctx.route, t.ctx.toStack, t.frm.isSome)

/-- V-RT-1, V-RT-2, V-RT-3, V-RT-10, and no Associated station at all. -/
theorem test_route_relays :
    routeOf (exec .route (routeState Addr.broadcast e0 st1 st2)) = some (some .relayFlood, some true, true)
      ∧ routeOf (exec .route (routeState s2 e0 st1 st2)) = some (some (.relayUcast 2), some false, true)
      ∧ routeOf (exec .route (routeState bss e0 st1 st2)) = some (some .toStack, some true, true)
      ∧ routeOf (exec .route (routeState s2 e0 st1 { st2 with assoc := .authenticated })) = some (some .toStack, some true, true)
      ∧ routeOf (exec .route (routeState Addr.broadcast { e0 with ps := true } StaEntry.invalid StaEntry.invalid))
        = some (some .toStack, some true, true) := by decide
/-- V-RT-5, V-RT-6, V-RT-7, V-RT-8. -/
theorem test_route_queues :
    (nextOf (exec .route (routeState Addr.broadcast { e0 with ps := true } st1 st2))).map
        (fun t => (t.ctx.route, t.st[0]?.map StaEntry.q)) = some (some .queuedMcast, some [moved])
      ∧ (nextOf (exec .route (routeState Addr.broadcast { e0 with q := [packet] } { st1 with ps := true } st2))).map
        (fun t => (t.ctx.route, t.st[0]?.map StaEntry.q, t.stat.psqOverflow, t.stage))
        = some (some .queuedMcast, some [packet], 1, .headerTranslated)
      ∧ (nextOf (exec .route (routeState s2 e0 st1 { st2 with ps := true }))).map
        (fun t => (t.ctx.route, t.ctx.toStack, t.st[2]?.map StaEntry.q, t.frm))
        = some (some (.queuedSta 2), some false, some [moved], none)
      ∧ droppedWith (exec .route (routeState s2 e0 st1 { st2 with ps := true, q := [packet] })) 18 (some .psqOverflow) := by
  refine ⟨by decide, by decide, by decide, by decide⟩
theorem test_route_rows :
    routeOf (exec .routeNosta (routeState s2 e0 st1 st2)) = some (some .toStack, some true, true)
      ∧ routeOf (exec .routeMcq (routeState s2 e0 st1 st2)) = some (some .queuedMcast, some true, true)
      ∧ routeOf (exec .routeFlood (routeState s2 e0 st1 st2)) = some (some .relayFlood, some true, true)
      ∧ routeOf (exec .routeUcq (routeState s2 e0 st1 st2)) = some (some (.queuedSta 2), some false, false)
      ∧ routeOf (exec .routeUcrelay (routeState s2 e0 st1 st2)) = some (some (.relayUcast 2), some false, true)
      ∧ routeOf (exec .routeLocal (routeState s2 e0 st1 st2)) = some (some .toStack, some true, true) := by
  refine ⟨by decide, by decide, by decide, by decide, by decide, by decide⟩
/-- V-RT-12 with the cap reached; and a move. -/
theorem test_psqPush :
    droppedWith (exec (.psqPush 1) (routeState s2 e0 { st1 with q := [packet] } st2)) 18 (some .psqOverflow)
      ∧ (nextOf (exec (.psqPush 1) (routeState s2 e0 st1 st2))).map (fun t => (t.st[1]?.map StaEntry.q, t.frm))
        = some (some [moved], none) := by decide

/-! ### The decryption dispatcher -/

def key (sc : Scope) (a : Addr) (i : BitVec 2) (su : Suite) : KeyRec :=
  { valid := true, scope := sc, addr := a, kidx := i, suite := su, material := [1, 2, 3, 4, 5], tscLo := 5, tscHi := 0 }

/-- A protected frame from S1 to the access point, classified, with the given bytes behind its header. -/
def cryptState (c : Cfg) (ks : List KeyRec) (tail : List Byte) : State :=
  { during .classified
      { Ctx.empty with fc := some 0x4108, tag := some .data, isWep := some true, isFrag := some false, isMcast := some false,
                       isPspoll := some false, hdrlen := some 24, ta := some s1 }
      (header 0x08 0x41 bss s1 s2 0 ++ tail)
    with cfg := c, ks := ks }
def ivOf (o : Host.Outcome State Fault Refusal) : Option (Option Iv4 × Option (BitVec 2) × Option Bool) :=
  (ctxOf o).map fun c => (c.iv, c.kidx, c.extIv)

/-- V-IV-3, V-IV-4, V-IV-6; V-IV-7. -/
theorem test_ivparse :
    ivOf (exec .ivparse (cryptState Cfg.reset [] [0x00, 0x20, 0x01, 0x60])) = some (some ⟨0, 0x20, 1, 0x60⟩, some 1, some true)
      ∧ ivOf (exec .ivparse (cryptState Cfg.reset [] [0, 0, 0, 0xFF])) = some (some ⟨0, 0, 0, 0xFF⟩, some 3, some true)
      ∧ ivOf (exec .ivparse (cryptState Cfg.reset [] [0, 0, 0, 0x80])) = some (some ⟨0, 0, 0, 0x80⟩, some 2, some false)
      ∧ droppedWith (exec .ivparse (cryptState Cfg.reset [] [0, 0, 0])) 3 (some .malformed) := by decide

def wpaCfg (su : Suite) : Cfg := { Cfg.reset with akm := .wpa2Psk, pairwiseSuite := su, groupSuite := .tkip, bssid := bss }
def withIndex (s : State) (i : BitVec 2) (mcast : Bool) : State :=
  { s with ctx := { s.ctx with kidx := some i, isMcast := some mcast, iv := some ⟨1, 2, 3, 0x20⟩, extIv := some true } }
def keyOf (o : Host.Outcome State Fault Refusal) : Option (Option Nat × Option Bool) := (ctxOf o).map fun c => (c.key, c.usePw)
def kPw : KeyRec := key .pairwise s1 0 .ccmp
def kBss : KeyRec := key .group bss 1 .tkip
def kBc : KeyRec := key .group Addr.broadcast 1 .wep

/-- V-KS-2 and V-KS-9 (the index plays no part), V-KS-3, V-KS-4, V-KS-6. -/
theorem test_keysel_resolves :
    keyOf (exec .keysel (withIndex (cryptState (wpaCfg .ccmp) [kBss, kPw] []) 3 false)) = some (some 1, some true)
      ∧ keyOf (exec .keysel (withIndex (cryptState (wpaCfg .ccmp) [kPw, kBss] []) 1 true)) = some (some 1, some false)
      ∧ keyOf (exec .keysel (withIndex (cryptState (wpaCfg .noSuite) [kPw, kBss] []) 1 false)) = some (some 1, some false)
      ∧ keyOf (exec .keysel (withIndex (cryptState (wpaCfg .ccmp) [kBc] []) 1 false)) = some (some 0, some true) := by decide
/-- V-KS-5, V-KS-8. -/
theorem test_keysel_no_key :
    droppedWith (exec .keysel (withIndex (cryptState (wpaCfg .ccmp) [kBss] []) 1 false)) 15 (some .wepUndecryptable)
      ∧ droppedWith (exec .keysel (withIndex (cryptState (wpaCfg .ccmp) [kBss, kBc] []) 2 true)) 15
        (some .wepUndecryptable) := by decide
theorem test_keysel_rows :
    keyOf (exec .keyselPw (withIndex (cryptState (wpaCfg .ccmp) [kBss, kPw] []) 1 false)) = some (some 1, some true)
      ∧ keyOf (exec .keyselGrp (withIndex (cryptState (wpaCfg .ccmp) [kPw, kBss] []) 1 false)) = some (some 1, some false)
      ∧ keyOf (exec .keyselBcast (withIndex (cryptState (wpaCfg .ccmp) [kBss, kBc] []) 1 false)) = some (some 1, none)
      ∧ keyOf (exec .keyselPw (withIndex (cryptState (wpaCfg .ccmp) [kBss] []) 1 false)) = some (none, some true) := by decide

def withKey (s : State) (h : Nat) (pw : Bool) (su : Option Suite) : State :=
  { s with ctx := { s.ctx with key := some h, usePw := some pw, suite := su } }
/-- V-CC-1 and V-CC-2; V-CC-3 and V-CC-4. -/
theorem test_cipherchk :
    (ctxOf (exec .cipherchk (withKey (cryptState (wpaCfg .ccmp) [kPw] []) 0 true none))).bind Ctx.suite = some .ccmp
      ∧ droppedWith (exec .cipherchk (withKey (cryptState (wpaCfg .ccmp) [kBss] []) 0 true none)) 5 (some .cipherMismatch)
      ∧ (ctxOf (exec .cipherchk (withKey (cryptState (wpaCfg .ccmp) [kBss] []) 0 false none))).bind Ctx.suite = some .tkip
      ∧ droppedWith (exec .cipherchk (withKey (cryptState (wpaCfg .ccmp) [kPw] []) 0 false none)) 5
        (some .cipherMismatch) := by decide
/-- V-CC-6. -/
theorem test_decNone : droppedWith (exec .decNone base) 16 (some .wepUndecryptable) := by decide

/-- A frame about to be deciphered. -/
def decState (ext : Bool) (su : Suite) (tail : List Byte) : State :=
  let s := withKey (withIndex (cryptState (wpaCfg su) [key .pairwise s1 0 su] tail) 0 false) 0 true (some su)
  { s with ctx := { s.ctx with extIv := some ext } }
/-- V-WEP-4, V-WEP-5. -/
theorem test_decWep_drops :
    droppedWith (exec .decWep (decState false .wep (List.replicate 7 0))) 3 (some .malformed)
      ∧ droppedWith (exec .decWep (decState true .wep (List.replicate 20 0))) 17 (some .wepUndecryptable) := by decide
/-- V-TKIP-5, V-TKIP-4. -/
theorem test_decTkip_drops :
    droppedWith (exec .decTkip (decState true .tkip (List.replicate 19 0))) 3 (some .malformed)
      ∧ droppedWith (exec .decTkip (decState false .tkip (List.replicate 32 0))) 7 (some .tkipDecryptErr) := by decide
/-- V-CCMP-3. -/
theorem test_decCcmp_drops :
    droppedWith (exec .decCcmp (decState true .ccmp (List.replicate 15 0))) 3 (some .malformed)
      ∧ droppedWith (exec .decCcmp (decState false .ccmp (List.replicate 28 0))) 9 (some .ccmpDecryptErr) := by decide
/-- V-IV-10, V-IV-12, V-IV-13: the sequence values of TKIP and of CCMP from the IV bytes (R108, R109). -/
theorem test_sequence_values :
    tkipTscLo ⟨0x12, 0x32, 0x34, 0x20⟩ = 0x1234 ∧ ccmpPnLo ⟨0x34, 0x12, 0x00, 0x20⟩ = 0x1234
      ∧ ccmpPnLo ⟨0xFF, 0xFF, 0x99, 0x20⟩ = 0xFFFF ∧ le32 [0x78, 0x56, 0x34, 0x12] = 0x12345678 := by decide
/-- The table of R232. -/
theorem test_strip :
    (nextOf (exec .strip (decState false .wep (List.replicate 36 0)))).map (fun t => (t.frm.map Frame.len, t.stage))
        = some (some 56, .decrypted)
      ∧ (nextOf (exec .strip (decState true .tkip (List.replicate 32 0)))).map (fun t => t.frm.map Frame.len) = some (some 44)
      ∧ (nextOf (exec .strip (decState true .ccmp (List.replicate 28 0)))).map (fun t => t.frm.map Frame.len) = some (some 44)
      ∧ (nextOf (exec .strip (decState true .ccmp (List.replicate 28 0)))).map (fun t => t.ctx.dec) = some true := by decide

/-! ### The replay checker -/

def replayState (oh : BitVec 32) (ol : BitVec 16) (nh : BitVec 32) (nl : BitVec 16) (su : Suite) : State :=
  let s := decState true su (List.replicate 20 0)
  { s with stage := .decrypted, ks := [{ key .pairwise s1 0 su with tscHi := oh, tscLo := ol }],
           ctx := { s.ctx with tscHi := some nh, tscLo := some nl, dec := true } }
def storedOf (o : Host.Outcome State Fault Refusal) : Option (Stage × List (BitVec 32 × BitVec 16)) :=
  (nextOf o).map fun t => (t.stage, t.ks.map fun k => (k.tscHi, k.tscLo))
/-- V-RPL-1, V-RPL-4, V-RPL-8, V-RPL-9. -/
theorem test_rplchk_accepts :
    storedOf (exec .rplchk (replayState 0 5 0 6 .tkip)) = some (.replayChecked, [(0, 6)])
      ∧ storedOf (exec .rplchk (replayState 0 0xFFFF 1 0 .ccmp)) = some (.replayChecked, [(1, 0)])
      ∧ storedOf (exec .rplchk (replayState 0xFFFFFFFF 0xFFFF 0 0 .ccmp)) = some (.replayChecked, [(0, 0)])
      ∧ storedOf (exec .rplchk (replayState 0xFFFFFFFF 5 0 1 .ccmp)) = some (.replayChecked, [(0, 1)]) := by decide
/-- V-RPL-2, V-RPL-5, V-RPL-11, V-RPL-13. -/
theorem test_rplchk_rejects :
    droppedWith (exec .rplchk (replayState 0 5 0 5 .tkip)) 10 (some .tkipReplay)
      ∧ storedOf (exec .rplchk (replayState 1 0 0 0xFFFF .ccmp)) = some (.dropped, [(1, 0)])
      ∧ droppedWith (exec .rplchk (replayState 0xFFFFFFFE 0xFFFF 0 0 .ccmp)) 11 (some .ccmpReplay)
      ∧ droppedWith (exec .rplchk (replayState 0xFFFFFFFF 5 1 0 .ccmp)) 11 (some .ccmpReplay) := by decide

/-! ### The fragment hand-off -/

def fragState (mcast : Bool) (answers : List Answer) : State :=
  let s := during .classified { Ctx.empty with isMcast := some mcast, isFrag := some true, tag := some .data } [8, 6, 1]
  { s with env := { s.env with answers := answers } }
/-- V-DF-1, V-DF-2. -/
theorem test_defrag_answers :
    view (exec .defrag (fragState false [.incomplete])) = some ⟨.dropped, some 12, [.replenish, .drop 12], none⟩
      ∧ view (exec .defrag (fragState false [.complete [7, 7]])) = some ⟨.defragmented, none, [], some [7, 7]⟩
      ∧ (nextOf (exec .defrag (fragState false [.complete [7, 7]]))).map (fun t => (t.frm.map Frame.info, t.env.submitted))
        = some (some info, [{ bytes := [8, 6, 1], info := info }]) := by decide
/-- V-DF-3: the reassembler is not asked. -/
theorem test_defrag_mcast :
    droppedWith (exec .defrag (fragState true [.incomplete])) 4 (some .malformed)
      ∧ (nextOf (exec .defrag (fragState true [.incomplete]))).map (fun t => t.env.answers) = some [.incomplete] := by decide

/-! ### The header translator -/

def x1 : Addr := ⟨0x0A, 0, 0, 0, 0, 1⟩
def x2 : Addr := ⟨0x0A, 0, 0, 0, 0, 2⟩
def x3 : Addr := ⟨0x0A, 0, 0, 0, 0, 3⟩
def x4 : Addr := ⟨0x0A, 0, 0, 0, 0, 4⟩
def xltState (fc1 : Byte) (tail : List Byte) : State :=
  during .replayChecked { Ctx.empty with tag := some .data } (header 0x08 fc1 x1 x2 x3 0 ++ tail)
def outOf (o : Host.Outcome State Fault Refusal) : Option (Stage × Option (List Byte)) :=
  (nextOf o).map fun t => (t.stage, t.frm.map Frame.live)

/-- V-XLT-1, V-XLT-3, V-XLT-4, V-XLT-8. -/
theorem test_hdrxlt_forms :
    outOf (exec .hdrxlt (xltState 0 [0xAA, 0xAA, 3, 0, 0, 0, 0x86, 0xDD, 0x60, 0]))
        = some (.headerTranslated, some (x1.toList ++ x2.toList ++ [0x86, 0xDD, 0x60, 0]))
      ∧ outOf (exec .hdrxlt (xltState 1 [0xAA, 0xAA, 3, 0, 0, 0xF8, 0x81, 0x37, 0xFF, 0xFF]))
        = some (.headerTranslated, some (x3.toList ++ x2.toList
            ++ [0, 0x0A, 0xAA, 0xAA, 3, 0, 0, 0xF8, 0x81, 0x37, 0xFF, 0xFF]))
      ∧ outOf (exec .hdrxlt (xltState 3 (x4.toList ++ [0xAA, 0xAA, 3, 0, 0, 0, 8, 0, 0x45])))
        = some (.headerTranslated, some (x3.toList ++ x4.toList ++ [8, 0, 0x45]))
      ∧ outOf (exec .hdrxlt (xltState 3 (x4.toList ++ [0xE0, 0xE0, 3, 0xFF, 0xFF, 0, 0x1E, 0, 1, 0])))
        = some (.headerTranslated, some (x3.toList ++ x4.toList
            ++ [0, 0x0A, 0xE0, 0xE0, 3, 0xFF, 0xFF, 0, 0x1E, 0, 1, 0])) := by decide
/-- V-XLT-9, and a protected frame with an extended IV (program P2: the payload is at 32). -/
theorem test_hdrxlt_lengths :
    droppedWith (exec .hdrxlt (xltState 2 [0xAA, 0xAA, 3, 0, 0, 0, 8])) 3 (some .malformed)
      ∧ outOf (exec .hdrxlt (xltState 0x41 [7, 0, 0, 0x20, 0, 0, 0, 0, 0xAA, 0xAA, 3, 0, 0, 0, 8, 6, 0xDE, 0xAD]))
        = some (.headerTranslated, some (x3.toList ++ x2.toList ++ [8, 6, 0xDE, 0xAD])) := by decide
def addressed (s : State) : State := { s with ctx := { s.ctx with da := some x1, sa := some x4 } }
theorem test_xlt_address_rows :
    (ctxOf (exec .xltIbss (xltState 0 []))).map (fun c => (c.da, c.sa)) = some (some x1, some x2)
      ∧ (ctxOf (exec .xltFromap (xltState 0 []))).map (fun c => (c.da, c.sa)) = some (some x1, some x3)
      ∧ (ctxOf (exec .xltToap (xltState 0 []))).map (fun c => (c.da, c.sa)) = some (some x3, some x2)
      ∧ (ctxOf (exec .xltWds (xltState 0 x4.toList))).map (fun c => (c.da, c.sa)) = some (some x3, some x4)
      ∧ droppedWith (exec .xltWds (xltState 0 [1, 2, 3, 4, 5])) 3 (some .malformed) := by decide
theorem test_xlt_payload_rows :
    outOf (exec .xltPass (addressed (xltState 0 [1, 2, 3, 4, 5, 6, 7, 8])))
        = some (.replayChecked, some (x1.toList ++ x4.toList ++ [7, 8]))
      ∧ outOf (exec .xltLen (addressed (xltState 0 [1, 2, 3, 4, 5, 6, 7, 8])))
        = some (.replayChecked, some (x1.toList ++ x4.toList ++ [0, 8, 1, 2, 3, 4, 5, 6, 7, 8]))
      ∧ outOf (exec .xltRaw (addressed (xltState 0 [1, 2, 3, 4, 5, 6, 7, 8, 9])))
        = some (.replayChecked, some (x1.toList ++ x4.toList ++ [0, 9, 1, 2, 3, 4, 5, 6, 7, 8, 9])) := by decide

/-! ### The terminal operations -/

theorem test_mgmtDispatch :
    view (exec .mgmtDispatch (during .classified Ctx.empty [1, 2]))
      = some ⟨.delivered, none, [.mgmtDispatch { bytes := [1, 2], info := info }], none⟩ := by decide
/-- Outside access-point mode, and a frame that a queue holds. -/
theorem test_deliver :
    view (exec .deliver (during .headerTranslated Ctx.empty [1, 2]))
        = some ⟨.delivered, none, [.deliver (some { bytes := [1, 2], info := info }) .toStack true], none⟩
      ∧ view (exec .deliver
          { routeState s2 e0 st1 st2 with ctx := { Ctx.empty with route := some (.queuedSta 2), toStack := some false },
                                          frm := none })
        = some ⟨.delivered, none, [.deliver none (.queuedSta 2) false], none⟩ := by decide
theorem test_drop : droppedWith (exec (.drop .reassemblyIncomplete) (during .classified Ctx.empty [1])) 12 none := by decide

/-! ### The host operations -/

theorem test_hFrameIn :
    (nextOf (exec (.hFrameIn [1, 2] 5000 info) base)).map (fun t => (t.stage, t.ctx.wlen, t.lock, t.frm.map Frame.live))
        = some (.raw, some 4095, true, some [1, 2])
      ∧ replyOf (exec (.hFrameIn [1, 2] 60 info) (classifyState [1])) = some .refused := by decide
/-- V-H-1. -/
theorem test_hCfgWrite :
    replyOf (exec (.hCfgWrite 1 5) base) = some .refused
      ∧ (nextOf (exec (.hCfgWrite 4 0xAA0000000002) base)).map (fun t => t.cfg.bssid) = some bss
      ∧ (nextOf (exec (.hCfgWrite 3 2) base)).map (fun t => (t.cfg.groupSuite, t.env.reply)) = some (.tkip, some .done) := by
  decide
def keyed (ks : List KeyRec) : State := { base with ks := ks }
/-- V-H-2, V-H-3, V-H-4. -/
theorem test_hKeySet :
    replyOf (exec (.hKeySet 0 Addr.broadcast 4 1 [1] 0 0) base) = some .refused
      ∧ (nextOf (exec (.hKeySet 1 s1 3 3 [1, 2, 3, 4, 5] 9 0) (keyed [kBss, kPw]))).map State.ks
        = some [kBss, { kPw with kidx := 3, tscLo := 9 }]
      ∧ replyOf (exec (.hKeySet 1 s2 0 3 [1] 6 0) (keyed [kBss, kPw])) = some .refused := by decide
theorem test_hKeyDel :
    (nextOf (exec (.hKeyDel 0 bss 1) (keyed [kBss, kPw]))).map State.ks = some [{ kBss with valid := false }, kPw]
      ∧ (nextOf (exec (.hKeyDel 0 bss 2) (keyed [kBss, kPw]))).map (fun t => (t.ks, t.env.reply)) = some ([kBss, kPw], some .done) := by
  decide
def stationed (e1 e2 : StaEntry) : State := { base with st := table e1 e2 }
/-- V-H-5, V-H-6, V-H-7. -/
theorem test_hStaSet_refused :
    replyOf (exec (.hStaSet 0 s1 2) base) = some .refused ∧ replyOf (exec (.hStaSet 1 mc 2) base) = some .refused
      ∧ replyOf (exec (.hStaSet 2 s1 2) (stationed st1 StaEntry.invalid)) = some .refused := by decide
/-- V-H-8, and a new entry. -/
theorem test_hStaSet_writes :
    (nextOf (exec (.hStaSet 1 s1 1) (stationed (sta s1 .associated true [packet, packet]) st2))).map (fun t => t.st[1]?)
        = some (some (sta s1 .authenticated true [packet, packet]))
      ∧ (nextOf (exec (.hStaSet 3 src 2) (stationed st1 st2))).map (fun t => t.st[3]?)
        = some (some { valid := true, addr := src, assoc := .associated, ps := false, ready := false, q := [] }) := by decide
/-- V-H-11. -/
theorem test_hStaDel :
    (nextOf (exec (.hStaDel 2) (stationed st1 { st2 with q := [packet] }))).map (fun t => (t.st[2]?.map StaEntry.valid, t.env.reply))
        = some (some false, some (.frames [packet]))
      ∧ replyOf (exec (.hStaDel 0) base) = some .refused := by decide
/-- V-H-9, V-H-10. -/
theorem test_hPsPop :
    (nextOf (exec (.hPsPop 2) (stationed st1 { st2 with q := [packet, moved] }))).map (fun t => (t.st[2]?, t.env.reply))
        = some (some { st2 with q := [moved], ready := false }, some (.frame (some packet)))
      ∧ (nextOf (exec (.hPsPop 2) (stationed st1 st2))).map (fun t => (t.st[2]?, t.env.reply))
        = some (some { st2 with ready := false }, some (.frame none)) := by decide
/-- V-H-12. -/
theorem test_hSta0PsClear :
    (nextOf (exec .hSta0PsClear { base with st := [{ e0 with ps := true, q := [packet] }] })).map State.st
      = some [{ e0 with q := [packet] }] := by decide
/-- V-H-13. -/
theorem test_hStatRead :
    replyOf (exec (.hStatRead 11) { base with stat := { Stats.reset with psqOverflow := 7 } }) = some (.value 7)
      ∧ replyOf (exec (.hStatRead 14) base) = some .refused := by decide
/-- V-H-15, V-H-16. -/
theorem test_hReset :
    (nextOf (exec .hReset (apState 0x0108 true st2))).map (fun t => (t.stage, t.cfg, t.frm, t.st))
        = some (.idle, Cfg.reset, none, resetStations 4)
      ∧ replyOf (exec .hSta0PsClear (apState 0x0108 true st2)) = some .refused := by decide

/-! ### The states that meet the hypotheses of the statements, at the boundaries of their clauses -/

/-- A code byte below and one above the range of R122, with a move behind the transaction. -/
theorem witness_UnknownHostCodeRefused :
    (∃ (s : State) (c : Byte) (ops : List Byte) (rest : List HostMove),
        s.env.port = .command (c :: ops) :: rest ∧ c.toNat < 1)
      ∧ ∃ (s : State) (c : Byte) (ops : List Byte) (rest : List HostMove),
        s.env.port = .command (c :: ops) :: rest ∧ 10 < c.toNat :=
  ⟨⟨{ base with env := { Env.quiet with port := [.command [0x00, 5], .yield] } }, 0x00, [5], [.yield], rfl, by decide⟩,
    { base with env := { Env.quiet with port := [.command [0x0B]] } }, 0x0B, [], [], rfl, by decide⟩

def ported (p : List HostMove) (s : State) : State := { s with env := { s.env with port := p } }

/-- The four situations of a step. -/
theorem witness_StepRunsDecoded :
    ((ported [.command [0x0A], .yield] base).env.port = .command [0x0A] :: [.yield] ∧ decode (.hostcmd [0x0A]) = .ok .hReset
        ∧ Instr.hReset.wellFormed = true)
      ∧ ((ported [.yield] (lenState 40 20)).env.port = .yield :: [] ∧ issue (ported [.yield] (lenState 40 20)) = .code (.seq .lenchk)
        ∧ decode (.seq .lenchk) = .ok .lenchk ∧ Instr.lenchk.wellFormed = true)
      ∧ ((lenState 40 20).env.port = [] ∧ issue (lenState 40 20) = .code (.seq .lenchk))
      ∧ (base.env.port = [] ∧ base.stage = .idle) := by
  refine ⟨⟨rfl, rfl, rfl⟩, ⟨rfl, rfl, rfl, rfl⟩, ⟨rfl, rfl⟩, rfl, rfl⟩

/-! The sequencer -/

def wired (c : Ctx) : Ctx := { c with tag := some .data, isWep := some true }
def plain (c : Ctx) (frag : Bool) : Ctx := { c with tag := some .data, isWep := some false, isFrag := some frag }
def dataCtx (iv : Option Iv4) (k : Option Nat) (su : Option Suite) (ok : Option Bool) : Ctx :=
  wired { Ctx.empty with iv := iv, key := k, suite := su, decryptOk := ok }
def at_ (g : Stage) (ap : Bool) (c : Ctx) : State := { during g c [1] with cfg := { Cfg.reset with apMode := ap } }

/-- Every line of the successor function has a state that it applies to: the operation the sequencer issues there. -/
theorem witness_SequencerTable :
    issue (at_ .raw false Ctx.empty) = .code (.seq .lenchk) ∧ issue (at_ .lengthValidated true Ctx.empty) = .code (.seq .classify)
      ∧ issue (at_ .classified true { Ctx.empty with tag := some .ctrl }) = .code (.seq .apctl)
      ∧ issue (at_ .classified true { Ctx.empty with tag := some .data }) = .code (.seq .apctl)
      ∧ issue (at_ .classified true { Ctx.empty with tag := some .mgmt }) = .code (.seq .mgmtDispatch)
      ∧ issue (at_ .classified false { Ctx.empty with tag := some .ctrl }) = .code (.seq .mgmtDispatch)
      ∧ issue (at_ .apFiltered true { Ctx.empty with tag := some .ctrl }) = .code (.seq .mgmtDispatch)
      ∧ issue (at_ .classified false (dataCtx none none none none)) = .code (.seq .ivparse)
      ∧ issue (at_ .apFiltered true (dataCtx (some ⟨1, 2, 3, 4⟩) none none none)) = .code (.seq .keysel)
      ∧ issue (at_ .apFiltered true (dataCtx (some ⟨1, 2, 3, 4⟩) (some 0) none none)) = .code (.seq .cipherchk)
      ∧ issue (at_ .apFiltered true (dataCtx (some ⟨1, 2, 3, 4⟩) (some 0) (some .noSuite) none)) = .code (.suite2 0)
      ∧ issue (at_ .apFiltered true (dataCtx (some ⟨1, 2, 3, 4⟩) (some 0) (some .wep) none)) = .code (.suite2 1)
      ∧ issue (at_ .apFiltered true (dataCtx (some ⟨1, 2, 3, 4⟩) (some 0) (some .tkip) none)) = .code (.suite2 2)
      ∧ issue (at_ .apFiltered true (dataCtx (some ⟨1, 2, 3, 4⟩) (some 0) (some .ccmp) none)) = .code (.suite2 3)
      ∧ issue (at_ .apFiltered true (dataCtx (some ⟨1, 2, 3, 4⟩) (some 0) (some .wep) (some true))) = .code (.seq .strip) := by
  refine ⟨rfl, rfl, rfl, rfl, rfl, rfl, rfl, rfl, rfl, rfl, rfl, rfl, rfl, rfl, rfl⟩
/-- The lines after DECRYPT: V-SEQ-2, V-SEQ-3. -/
theorem witness_SequencerTable_late :
    issue (at_ .classified false (plain Ctx.empty true)) = .code (.seq .defrag)
      ∧ issue (at_ .decrypted true { Ctx.empty with tag := some .data, isFrag := some true }) = .code (.seq .defrag)
      ∧ issue (at_ .decrypted true { Ctx.empty with tag := some .data, isFrag := some false, suite := some .ccmp, dec := true })
        = .code (.seq .rplchk)
      ∧ issue (at_ .defragmented true { Ctx.empty with tag := some .data, suite := some .tkip, dec := true })
        = .code (.seq .rplchk)
      ∧ issue (at_ .apFiltered true (plain Ctx.empty false)) = .code (.seq .hdrxlt)
      ∧ issue (at_ .decrypted true { Ctx.empty with tag := some .data, isFrag := some false, suite := some .wep, dec := true })
        = .code (.seq .hdrxlt)
      ∧ issue (at_ .replayChecked true { Ctx.empty with tag := some .data }) = .code (.seq .hdrxlt)
      ∧ issue (at_ .headerTranslated true Ctx.empty) = .code (.seq .route)
      ∧ issue (at_ .headerTranslated true { Ctx.empty with route := some .toStack }) = .code (.seq .deliver)
      ∧ issue (at_ .headerTranslated false Ctx.empty) = .code (.seq .deliver)
      ∧ issue (at_ .defragmented true { Ctx.empty with tag := some .data }) = .code (.seq .hdrxlt)
      ∧ issue (at_ .defragmented true { Ctx.empty with tag := some .data, dec := true }) = .stuck (.ctxUnwritten .suite) := by
  refine ⟨rfl, rfl, rfl, rfl, rfl, rfl, rfl, rfl, rfl, rfl, rfl, rfl⟩

/-- The smallest device: no key record, the virtual station alone. -/
theorem witness_ResetValues :
    1 ≤ 1 ∧ (State.resetWith 0 1 Params.named Env.quiet).st = [StaEntry.virtual]
      ∧ (State.resetWith 0 1 Params.named Env.quiet).ks = [] := by
  refine ⟨by decide, rfl, rfl⟩

/-! The invariant -/

/-- A frame from Associated station S2 in access-point mode, about to be filtered. -/
def filtering : State := apState 0x0108 false (sta s2 .associated true [packet])
theorem inv_filtering : Inv filtering :=
  ⟨by decide, by decide, by decide, by decide, by decide, by decide, by decide,
    (by decide : ctxClassified filtering ∧ ctxChained filtering ∧ filtering.ctx.route = none)⟩
/-- The same frame after the filter. -/
def translating : State :=
  { filtering with stage := .apFiltered, ctx := { filtering.ctx with sta := some (some 2) } }
theorem inv_translating : Inv translating :=
  ⟨by decide, by decide, by decide, by decide, by decide, by decide, by decide,
    (by decide : ctxClassified translating ∧ ctxChained translating ∧ translating.ctx.route = none)⟩
/-- A deciphered CCMP frame whose replay check is due. -/
def checking : State :=
  let s := replayState 0 5 0 6 .ccmp
  { s with cfg := { s.cfg with apMode := true }, st := table (sta s1 .associated false []) st2 }
theorem inv_checking : Inv checking :=
  ⟨by decide, by decide, by decide, by decide, by decide, by decide, by decide,
    (by decide : ctxClassified checking ∧ ctxChained checking ∧ checking.ctx.route = none ∧ checking.ctx.tag = some .data)⟩
/-- A submitted frame. -/
def submitted : State := during .raw { Ctx.empty with wlen := some 60 } (header 0x08 0x02 us bss src 0)
theorem inv_submitted : Inv submitted :=
  ⟨by decide, by decide, by decide, by decide, by decide, by decide, by decide,
    (by decide : submitted.frm.isSome ∧ submitted.ctx = { Ctx.empty with wlen := submitted.ctx.wlen } ∧ submitted.ctx.wlen.isSome)⟩

theorem witness_StepKeepsInv :
    (Inv filtering ∧ ∃ t, step filtering = .next t) ∧ (Inv checking ∧ ∃ t, step checking = .next t)
      ∧ ∃ t, step (ported [.command [0x0A]] filtering) = .next t :=
  ⟨⟨inv_filtering, _, rfl⟩, ⟨inv_checking, _, rfl⟩, _, rfl⟩
theorem witness_StepNeverStuck : Inv filtering ∧ Inv translating ∧ Inv checking ∧ Inv submitted :=
  ⟨inv_filtering, inv_translating, inv_checking, inv_submitted⟩
theorem witness_PassRunsToCompletion :
    Inv submitted ∧ submitted.env.port = [] ∧ passLeft submitted = 13 ∧ Inv checking ∧ checking.env.port = [] :=
  ⟨inv_submitted, rfl, rfl, inv_checking, rfl⟩
theorem witness_TransmitterStaysAssociated :
    (Inv translating ∧ transmitterAssociated translating ∧ ∃ t, step translating = .next t)
      ∧ Inv checking ∧ transmitterAssociated checking ∧ ∃ t, step checking = .next t :=
  ⟨⟨inv_translating, fun _ => ⟨s2, 2, _, rfl, by decide, rfl, rfl⟩, _, rfl⟩, inv_checking,
    fun _ => ⟨s1, 1, _, rfl, by decide, rfl, rfl⟩, _, rfl⟩

/-! The effects of a pass -/

/-- A step that goes on, one that ends in a drop, one that ends in a delivery. -/
theorem witness_OnePassOneOutcome :
    (hostSilent filtering = true ∧ filtering.stage.quiet = false ∧ (nextOf (step filtering)).map (fun t => t.stage.quiet) = some false)
      ∧ (hostSilent (lenState 31 14) = true ∧ (lenState 31 14).stage.quiet = false
        ∧ (nextOf (step (lenState 31 14))).map (fun t => t.stage) = some .dropped)
      ∧ (hostSilent (at_ .headerTranslated false Ctx.empty) = true
        ∧ (nextOf (step (at_ .headerTranslated false Ctx.empty))).map (fun t => t.stage) = some .delivered) := by
  refine ⟨⟨by decide, by decide, by decide⟩, ⟨by decide, by decide, by decide⟩, by decide, by decide⟩
/-- A drop with a counter, the one without, a step that does not drop, and the refused clone. -/
theorem witness_OneCounterPerDrop :
    (nextOf (step (lenState 31 14))).map (fun t => (t.stage, t.stat.malformed)) = some (.dropped, 1)
      ∧ (nextOf (step (during .classified (plain { Ctx.empty with isMcast := some true } true) [1]))).map (fun t => t.stage) = some .dropped
      ∧ (nextOf (step (lenState 32 14))).map (fun t => t.stage) = some .lengthValidated
      ∧ (nextOf (step (routeState Addr.broadcast { e0 with q := [packet] } { st1 with ps := true } st2))).map
          (fun t => (t.stage, t.stat.psqOverflow)) = some (.headerTranslated, 1) := by
  refine ⟨by decide, by decide, by decide, by decide⟩
theorem witness_PipelineWritesOnlyItsOwn :
    hostSilent checking = true ∧ (∃ t, step checking = .next t)
      ∧ hostSilent (ported [.yield] filtering) = true ∧ ∃ t, step (ported [.yield] filtering) = .next t :=
  ⟨rfl, ⟨_, rfl⟩, rfl, _, rfl⟩
/-- The order of the conclusion's records: 5 becomes 6 and the wrap are advances, 6 becomes 5 is none. -/
theorem witness_ReplayMonotone_direction :
    ({ kPw with tscHi := 0, tscLo := 6 } : KeyRec).advancedFrom { kPw with tscHi := 0, tscLo := 5 }
      ∧ ({ kPw with tscHi := 0, tscLo := 1 } : KeyRec).advancedFrom { kPw with tscHi := 0xFFFFFFFF, tscLo := 5 }
      ∧ ¬ ({ kPw with tscHi := 0, tscLo := 5 } : KeyRec).advancedFrom { kPw with tscHi := 0, tscLo := 6 } := by
  refine ⟨.inr ⟨.inl (by decide), rfl⟩, .inr ⟨.inr ⟨rfl, rfl⟩, rfl⟩, ?_⟩
  rintro (h | ⟨h | ⟨h, -⟩, -⟩)
  · exact absurd (congrArg KeyRec.tscLo h) (by decide)
  · exact absurd h (by decide)
  · exact absurd h (by decide)
/-- A stored value that rises, and one that wraps. -/
theorem witness_ReplayMonotone :
    (nextOf (step checking)).map (fun t => t.ks.map fun k => (k.tscHi, k.tscLo)) = some [(0, 6)]
      ∧ (nextOf (step (replayState 0xFFFFFFFF 5 0 1 .ccmp))).map (fun t => t.ks.map fun k => (k.tscHi, k.tscLo)) = some [(0, 1)]
      ∧ hostSilent checking = true ∧ hostSilent (replayState 0xFFFFFFFF 5 0 1 .ccmp) = true := by decide

/-! The frame space: a frame of four bytes inside a longer buffer -/

def small : State := { base with frm := some (inside [1, 2, 3, 4]) }
theorem witness_frame_space : small.frm = some (inside [1, 2, 3, 4]) ∧ Memory.wf small.frm = true ∧ (inside [1, 2, 3, 4]).len = 4 := by
  decide
/-- Up to the last byte, and one past it. -/
theorem witness_MemReadBounded : (inside [1, 2, 3, 4]).len < 2 + 3 ∧ 2 + 2 ≤ (inside [1, 2, 3, 4]).len := by decide
theorem witness_MemWriteInPlace :
    (inside [1, 2, 3, 4]).len < 3 + [0xA0, (0xA1 : Byte)].length ∧ 2 + [0xA0, (0xA1 : Byte)].length ≤ (inside [1, 2, 3, 4]).len := by
  decide
theorem witness_FrameCuts : (inside [1, 2, 3, 4]).len < 5 ∧ 4 ≤ (inside [1, 2, 3, 4]).len := by decide
/-- The byte before the live region and the byte behind it are kept by a write to the whole region. -/
theorem test_write_whole_region :
    (nextOf (finish (memWrite 0 [5, 6, 7, 8]) small)).map (fun t => t.frm.map Frame.buf)
      = some (some [0xEE, 0xEE, 5, 6, 7, 8, 0xDD]) := by decide

theorem witness_LookupsAnswer :
    keysUnique [kBss, kPw, kBc] ∧ ([kBss, kPw, kBc])[1]? = some kPw ∧ (kPw.valid = true ∧ kPw.scope = .pairwise ∧ kPw.addr = s1)
      ∧ ([kBss, kPw, kBc])[0]? = some kBss ∧ kBss.kidx = 1 ∧ kBss.scope = .group
      ∧ stationsUnique (table st1 st2) ∧ (table st1 st2)[2]? = some st2 ∧ st2.valid = true ∧ 1 ≤ 2 := by decide

/-! The classifier -/

/-- Both ends of both intervals. -/
theorem witness_Lenchk :
    (∀ w ∈ [31, 32, 2364, (2365 : BitVec 12)], ∀ l ∈ [13, 14, 2346, 2347],
      (lenState w l).ctx.wlen = some w ∧ (lenState w l).frm.map Frame.len = some l) := by decide
/-- The shortest frame of the statement, the edges of TA, of Sequence Control and of the two header lengths, and each type. -/
theorem witness_Classify :
    (∀ l ∈ [10, 15, 16, 23, 24, 29, 30], ∀ fc0 ∈ [0x00, 0xA4, 0x08, (0x0C : Byte)], ∀ fc1 ∈ [0x00, (0x03 : Byte)],
      let s := classifyState ([fc0, fc1] ++ List.replicate (l - 2) 0)
      Memory.wf s.frm = true ∧ s.frm.map Frame.len = some l) := by decide
theorem witness_ClassifyPure :
    (∃ t, exec .classify (classifyState fromAp) = .next t ∧ t.stage = .classified)
      ∧ { classifyState fromAp with cfg := wpaCfg .ccmp, ctx := filtering.ctx }.frm = (classifyState fromAp).frm
      ∧ filtering.ctx ≠ (classifyState fromAp).ctx :=
  ⟨⟨_, rfl, rfl⟩, rfl, by decide⟩
/-- The two drops of CLASSIFY, and a frame without a transmitter address. -/
theorem witness_ClassifyPure_drops :
    (∃ t, exec .classify (classifyState [0x0C, 0, 0]) = .next t ∧ t.stage = .dropped)
      ∧ (∃ t, exec .classify (classifyState [0x08]) = .next t ∧ t.stage = .dropped)
      ∧ ∃ t, exec .classify (classifyState ([0xC4, 0] ++ List.replicate 12 0)) = .next t ∧ t.stage = .classified ∧ t.ctx.ta = none :=
  ⟨⟨_, rfl, rfl⟩, ⟨_, rfl, rfl⟩, _, rfl, rfl, rfl⟩

/-! The access-point filter -/

def noTa : State := { filtering with ctx := { filtering.ctx with ta := none } }
def stranger : State := { filtering with ctx := { filtering.ctx with ta := some src } }
def met (x : Assoc) : State := apState 0x0108 false (sta s2 x true [packet])
theorem witness_ApctlClassRules :
    noTa.ctx.ta = none
      ∧ (stranger.ctx.ta = some src ∧ ∀ e ∈ stranger.st.drop 1, e.valid = true → e.addr ≠ src)
      ∧ ((met .unauthenticated).ctx.ta = some s2 ∧ stLookup (met .unauthenticated).st s2 = some 2
        ∧ ((met .unauthenticated).st[2]?).map StaEntry.assoc = some .unauthenticated)
      ∧ (stLookup (met .authenticated).st s2 = some 2
        ∧ ((met .authenticated).st[2]?).map StaEntry.assoc = some .authenticated) := by decide
/-- Every value of PS-Poll, of the frame-control word and of PS. -/
theorem witness_ApctlPowerSave :
    ∀ (poll : Bool) (fc : BitVec 16) (ps : Bool),
      let s := apState fc poll (sta s2 .associated ps [packet])
      s.ctx.ta = some s2 ∧ stLookup s.st s2 = some 2 ∧ s.st[2]? = some (sta s2 .associated ps [packet])
        ∧ s.ctx.isPspoll = some poll ∧ s.ctx.fc = some fc := fun _ _ _ => ⟨rfl, rfl, rfl, rfl, rfl⟩
theorem witness_ApctlRows :
    filtering.ctx.ta = some s2 ∧ (onStation filtering).ctx.sta = some (some 2)
      ∧ (onStation filtering).st[2]? = some (sta s2 .associated true [packet]) := by decide

/-- R46's two values, written out: two Associated stations of which none dozes, none at all, and entry 0 alone dozing. -/
theorem witness_RouteDecision_R46 :
    (let s := routeState mc e0 st1 st2;
      2 = ((s.st.drop 1).filter fun e => decide (e.valid = true ∧ e.assoc = .associated)).length
        ∧ ¬ (e0.ps = true ∨ ∃ e ∈ s.st.drop 1, e.valid = true ∧ e.ps = true))
      ∧ (let s := routeState mc e0 StaEntry.invalid StaEntry.invalid;
        0 = ((s.st.drop 1).filter fun e => decide (e.valid = true ∧ e.assoc = .associated)).length)
      ∧ (let s := routeState mc { e0 with ps := true } st1 st2;
        s.st[0]? = some { e0 with ps := true } ∧ ({ e0 with ps := true } : StaEntry).ps = true) := by decide
/-- One state for each outcome of ROUTE, the full and the empty queue. -/
theorem witness_RouteDecision :
    (let s := routeState Addr.broadcast e0 StaEntry.invalid StaEntry.invalid;
      s.ctx.da = some Addr.broadcast ∧ s.frm = some (frame [9, 9]) ∧ s.st[0]? = some e0 ∧ countAssoc s.st = 0)
      ∧ (let s := routeState Addr.broadcast { e0 with q := [packet] } { st1 with ps := true } st2;
        countAssoc s.st = 2 ∧ anyPs s.st = true ∧ s.st[0]? = some { e0 with q := [packet] } ∧ s.par.psqCap = 1)
      ∧ (let s := routeState mc e0 st1 st2;
        s.ctx.da = some mc ∧ mc.b0.getLsbD 0 = true ∧ anyPs s.st = false)
      ∧ (let s := routeState s2 e0 st1 { st2 with ps := true, q := [packet] };
        s2.b0.getLsbD 0 = false ∧ stLookup s.st s2 = some 2 ∧ (s.st[2]?).map (fun e => e.q.length) = some 1)
      ∧ stLookup (routeState bss e0 st1 st2).st bss = none := by
  refine ⟨by decide, by decide, by decide, by decide, by decide⟩
theorem witness_RouteRows :
    (routeState s2 e0 st1 st2).frm = some (frame [9, 9]) ∧ (routeState s2 e0 st1 st2).st[0]? = some e0
      ∧ (routeState s2 e0 st1 st2).ctx.da = some s2 ∧ stLookup (routeState s2 e0 st1 st2).st s2 = some 2
      ∧ (routeState s2 e0 st1 st2).st[2]? = some st2 := by decide
/-- A queue one below its capacity, and one at it. -/
theorem witness_PsqPush :
    (routeState s2 e0 st1 st2).st[1]? = some st1 ∧ st1.q.length + 1 = (routeState s2 e0 st1 st2).par.psqCap
      ∧ (routeState s2 e0 { st1 with q := [packet] } st2).st[1]? = some { st1 with q := [packet] }
      ∧ (routeState s2 e0 st1 st2).frm = some (frame [9, 9]) := by decide

/-! The decryption dispatcher -/

/-- A frame of exactly the IV's end, and one byte less. -/
theorem witness_Ivparse :
    ∀ n ∈ [3, 4], let s := cryptState Cfg.reset [] (List.replicate n 0)
      Memory.wf s.frm = true ∧ s.ctx.hdrlen = some 24 ∧ s.frm.map Frame.len = some (24 + n) := by decide
theorem witness_Keysel :
    ∀ m ∈ [true, false], let s := withIndex (cryptState (wpaCfg .ccmp) [kBss, kPw] []) 1 m
      s.ctx.isMcast = some m ∧ s.ctx.ta = some s1 ∧ s.ctx.kidx = some 1
        ∧ ksLookup s.ks .pairwise s1 2 = some 1 ∧ ksLookup s.ks .group bss 1 = some 0
        ∧ ksLookup s.ks .group Addr.broadcast 1 = none := by decide
theorem witness_KeyselRows :
    (withIndex (cryptState (wpaCfg .ccmp) [kBc] []) 1 false).ctx.ta = some s1
      ∧ (withIndex (cryptState (wpaCfg .ccmp) [kBc] []) 1 false).ctx.kidx = some 1 := by decide
theorem witness_Cipherchk :
    ∀ pw ∈ [true, false], let s := withKey (cryptState (wpaCfg .ccmp) [kPw] []) 0 pw none
      s.ctx.key = some 0 ∧ s.ks[0]? = some kPw ∧ s.ctx.usePw = some pw := by decide

/-- The registers and the frame a cipher needs: the shortest frame it takes, one byte less, and either extended-IV bit. -/
theorem witness_ciphers :
    ∀ su ∈ [Suite.wep, .tkip, .ccmp], ∀ ext ∈ [true, false], ∀ n ∈ [7, 8, 15, 16, 19, 20],
      let s := decState ext su (List.replicate n 0)
      Memory.wf s.frm = true ∧ s.frm.map Frame.len = some (24 + n) ∧ s.ctx.hdrlen = some 24
        ∧ s.ctx.iv = some ⟨1, 2, 3, 0x20⟩ ∧ s.ctx.key = some 0 ∧ s.ks[0]? = some (key .pairwise s1 0 su)
        ∧ s.ctx.extIv = some ext ∧ s.ctx.ta = some s1 := by decide
/-- All hypotheses of DecWep together. -/
theorem witness_DecWep :
    ∃ (s : State) (f : Frame) (h : BitVec 5) (iv : Iv4) (kh : Nat) (k : KeyRec) (d : Nat) (p : List Byte),
      s.frm = some f ∧ Memory.wf s.frm = true ∧ s.ctx.hdrlen = some h ∧ s.ctx.iv = some iv ∧ s.ctx.key = some kh
        ∧ s.ks[kh]? = some k ∧ s.ctx.extIv = some false ∧ d = f.len - h.toNat - 4 - 4 ∧ d = 3
        ∧ p = (Config.rc4 ([iv.b0, iv.b1, iv.b2] ++ k.material) (d + 4) (toVec (d + 4) (f.live.drop (h.toNat + 4)))).toList :=
  ⟨decState false .wep (List.replicate 11 0), frame (header 0x08 0x41 bss s1 s2 0 ++ List.replicate 11 0), 24, ⟨1, 2, 3, 0x20⟩, 0,
    key .pairwise s1 0 .wep, 3, _, rfl, by decide, rfl, rfl, rfl, rfl, rfl, by decide, rfl, rfl⟩
/-- All hypotheses of DecTkip together: the sequence value of the IV region 01 02 03 20 and 78 56 34 12. -/
theorem witness_DecTkip :
    ∃ (s : State) (f : Frame) (h : BitVec 5) (iv : Iv4) (kh : Nat) (k : KeyRec) (ta : Addr) (L : List Byte) (lo : BitVec 16)
      (hi : BitVec 32) (d : Nat) (p : List Byte),
      s.frm = some f ∧ Memory.wf s.frm = true ∧ s.ctx.hdrlen = some h ∧ s.ctx.iv = some iv ∧ s.ctx.key = some kh
        ∧ s.ks[kh]? = some k ∧ s.ctx.ta = some ta ∧ s.ctx.extIv = some true ∧ L = f.live ∧ lo = iv.b0 ++ iv.b2 ∧ lo = 0x0103
        ∧ hi = byteAt L (h.toNat + 7) ++ byteAt L (h.toNat + 6) ++ byteAt L (h.toNat + 5) ++ byteAt L (h.toNat + 4)
        ∧ hi = 0x12345678 ∧ d = f.len - h.toNat - 8 - 4 ∧ d = 9
        ∧ p = (Config.rc4 (Config.tkipMix k.material ta lo hi) (d + 4) (toVec (d + 4) (L.drop (h.toNat + 8)))).toList :=
  let tail : List Byte := [1, 2, 3, 0x20, 0x78, 0x56, 0x34, 0x12] ++ List.replicate 13 0
  ⟨decState true .tkip tail, frame (header 0x08 0x41 bss s1 s2 0 ++ tail), 24, ⟨1, 2, 3, 0x20⟩, 0,
    key .pairwise s1 0 .tkip, s1, _, 0x0103, 0x12345678, 9, _, rfl, by decide, rfl, rfl, rfl, rfl, rfl, rfl, rfl, by decide, rfl,
    by decide, rfl, by decide, rfl, rfl⟩
/-- All hypotheses of DecCcmp together. -/
theorem witness_DecCcmp :
    ∃ (s : State) (f : Frame) (h : BitVec 5) (iv : Iv4) (kh : Nat) (k : KeyRec) (L : List Byte) (lo : BitVec 16) (hi : BitVec 32)
      (d : Nat) (r : Vector Byte d × Bool),
      s.frm = some f ∧ Memory.wf s.frm = true ∧ s.ctx.hdrlen = some h ∧ s.ctx.iv = some iv ∧ s.ctx.key = some kh
        ∧ s.ks[kh]? = some k ∧ s.ctx.extIv = some true ∧ L = f.live ∧ lo = iv.b1 ++ iv.b0 ∧ lo = 0x0201
        ∧ hi = byteAt L (h.toNat + 7) ++ byteAt L (h.toNat + 6) ++ byteAt L (h.toNat + 5) ++ byteAt L (h.toNat + 4)
        ∧ d = f.len - h.toNat - 8 - 8 ∧ d = 5
        ∧ r = Config.ccmpOpen k.material lo hi (L.take h.toNat) d (toVec (d + 8) (L.drop (h.toNat + 8))) :=
  let tail : List Byte := [1, 2, 3, 0x20, 0x78, 0x56, 0x34, 0x12] ++ List.replicate 13 0
  ⟨decState true .ccmp tail, frame (header 0x08 0x41 bss s1 s2 0 ++ tail), 24, ⟨1, 2, 3, 0x20⟩, 0,
    key .pairwise s1 0 .ccmp, _, 0x0201, _, 5, _, rfl, by decide, rfl, rfl, rfl, rfl, rfl, rfl, by decide, rfl, rfl, by decide, rfl,
    rfl⟩
/-- Each suite with the bytes STRIP takes, the shortest frame and one byte less. -/
theorem witness_Strip :
    ∀ x ∈ [(Suite.noSuite, 0), (.wep, 4), (.tkip, 12), (.ccmp, 8)], ∀ l ∈ [x.2 - 1, x.2],
      let s := withKey (during .apFiltered Ctx.empty (List.replicate l 0)) 0 true (some x.1)
      s.ctx.suite = some x.1 ∧ s.frm.map Frame.len = some l := by decide
theorem witness_DispatcherSideEffects :
    isDispatcherOperation .strip ∧ (∃ t, exec .strip (decState true .ccmp (List.replicate 28 0)) = .next t)
      ∧ isDispatcherOperation .decNone ∧ ∃ t, exec .decNone base = .next t :=
  ⟨by simp [isDispatcherOperation], ⟨_, rfl⟩, by simp [isDispatcherOperation], _, rfl⟩
/-- The frame space of the storing ciphers, a frame of 44 bytes; witness_ciphers has the edges. -/
theorem witness_CiphersStoreInPayload :
    let s := decState false .wep (List.replicate 20 0)
    Memory.wf s.frm = true ∧ s.ctx.hdrlen = some 24 ∧ s.frm.map Frame.len = some 44 ∧ s.ctx.ta = some s1
      ∧ s.ctx.key = some 0 ∧ s.ks[0]? = some (key .pairwise s1 0 .wep) ∧ s.ctx.iv = some ⟨1, 2, 3, 0x20⟩
      ∧ s.ctx.extIv = some false := by decide

/-! The replay checker and the fragment hand-off -/

theorem witness_Rplchk :
    ∀ (su : Suite) (n : BitVec 16),
      let s := replayState 0 5 0 n su
      s.ctx.tscHi = some 0 ∧ s.ctx.tscLo = some n ∧ s.ctx.key = some 0
        ∧ s.ks[0]? = some { key .pairwise s1 0 su with tscHi := 0, tscLo := 5 } ∧ s.ctx.suite = some su :=
  fun _ _ => ⟨rfl, rfl, rfl, rfl, rfl⟩
theorem witness_SameTscRejected :
    ∃ s t u : State, exec .rplchk s = .next t ∧ t.stage = .replayChecked ∧ s.ctx.key = some 0 ∧ u.ks = t.ks ∧ u.ctx.key = some 0
      ∧ u.ctx.tscHi = s.ctx.tscHi ∧ u.ctx.tscLo = s.ctx.tscLo ∧ u.ctx.suite = some .ccmp :=
  ⟨checking, _, { checking with ks := [{ key .pairwise s1 0 .ccmp with tscHi := 0, tscLo := 6 }] }, rfl, rfl, rfl, rfl, rfl, rfl,
    rfl, rfl⟩
/-- A listed answer of each kind, and the free answer. -/
theorem witness_Defrag :
    ((fragState false [.incomplete]).frm = some (frame [8, 6, 1]) ∧ (fragState false [.incomplete]).ctx.isMcast = some false
        ∧ (fragState false [.incomplete]).env.answers = [.incomplete])
      ∧ (fragState true [.complete [7]]).ctx.isMcast = some true
      ∧ ((fragState false []).env.answers = []
        ∧ ∃ a, (match Config.reassemblerAnswer (fragState false []).env.freeCount with
            | some b => a = Answer.complete b
            | none => a = .incomplete)) := by
  refine ⟨by decide, by decide, by decide, ?_⟩
  cases Config.reassemblerAnswer (fragState false []).env.freeCount with
  | some b => exact ⟨_, rfl⟩
  | none => exact ⟨_, rfl⟩

/-! The header translator -/

/-- Frames at both edges of every address row's test. -/
theorem witness_XltAddressRows :
    ∀ l ∈ [15, 16, 21, 22, 29, 30], let s := during .replayChecked Ctx.empty (List.replicate l 0)
      Memory.wf s.frm = true ∧ s.frm.map Frame.len = some l := by decide
/-- A protected four-address frame: the header ends at 30, the payload starts at 38, and a frame stops one byte before each
edge and at it. -/
def wdsState (l : Nat) : State :=
  during .replayChecked { Ctx.empty with tag := some .data }
    ((header 0x08 0x43 x1 x2 x3 0 ++ x4.toList ++ [7, 0, 0, 0x20, 0, 0, 0, 0, 0xAA, 0xAA, 3, 0, 0, 0, 8, 0, 0x45]).take l)
theorem witness_Hdrxlt :
    ∀ l ∈ [29, 30, 45, 46, 47], Memory.wf (wdsState l).frm = true ∧ (wdsState l).frm.map Frame.len = some l := by decide
/-- And its translation: X3, X4, the embedded type, the rest. -/
theorem test_hdrxlt_protected_wds :
    outOf (exec .hdrxlt (wdsState 47)) = some (.headerTranslated, some (x3.toList ++ x4.toList ++ [8, 0, 0x45]))
      ∧ (nextOf (exec .hdrxlt (wdsState 47))).map (fun t => t.frm.map Frame.head) = some (some 32)
      ∧ droppedWith (exec .hdrxlt (wdsState 45)) 3 (some .malformed) := by decide
theorem witness_XltPayloadRows :
    let s := addressed (xltState 0 [1, 2, 3, 4, 5, 6, 7, 8])
    Memory.wf s.frm = true ∧ s.ctx.da = some x1 ∧ s.ctx.sa = some x4 ∧ s.frm.map Frame.len = some (24 + 8) := by decide

/-! The terminal operations and the host -/

theorem witness_MgmtDispatch : (during .classified Ctx.empty [1, 2]).frm = some (frame [1, 2]) := by rfl
theorem witness_Deliver :
    ((during .headerTranslated Ctx.empty [1]).cfg.apMode = false ∧ (during .headerTranslated Ctx.empty [1]).frm = some (frame [1]))
      ∧ (let s := at_ .headerTranslated true { Ctx.empty with route := some (.relayUcast 2), toStack := some false };
        s.cfg.apMode = true ∧ s.ctx.route = some (.relayUcast 2) ∧ s.ctx.toStack = some false ∧ s.frm = some (frame [1]))
      ∧ (let s := at_ .headerTranslated true { Ctx.empty with route := some (.queuedSta 2), toStack := some false };
        s.cfg.apMode = true ∧ s.ctx.route = some (.queuedSta 2) ∧ s.ctx.toStack = some false) := by decide
theorem witness_host_free : base.lock = false ∧ (keyed [kBss, kPw]).lock = false ∧ (stationed st1 st2).lock = false := by decide
/-- The defined values at their ends, and the first undefined ones. -/
theorem witness_CfgWrite :
    Akm.wpa2Psk.code.toNat = 4 ∧ 4 < 5 ∧ Suite.ccmp.code.toNat = 3 ∧ 3 < 4
      ∧ ofLeBytes Addr.broadcast.toList = 2 ^ 48 - 1 ∧ 2 ^ 48 ≤ 2 ^ 48 := by decide
/-- The key store with a match, with an invalid record, and full. -/
theorem witness_KeySet :
    ksLookup (keyed [kBss, kPw]).ks .pairwise s1 (BitVec.ofNat 2 3) = some 1
      ∧ (ksLookup (keyed [kBss, KeyRec.invalid]).ks .pairwise s1 0 = none ∧ ∃ x ∈ [kBss, KeyRec.invalid], x.valid = false)
      ∧ (ksLookup (keyed [kBss, kPw]).ks .group bss 0 = none ∧ ∀ x ∈ [kBss, kPw], x.valid = true)
      ∧ (¬ (2 < 2) ∧ ¬ (4 < 4) ∧ ¬ (1 ≤ ([] : List Byte).length) ∧ ¬ ((List.replicate 33 (0 : Byte)).length ≤ 32)
        ∧ ¬ ((2 : Nat) ^ 16 < 2 ^ 16)) := by decide
theorem witness_KeyDel :
    ksLookup (keyed [kBss, kPw]).ks .pairwise s1 0 = some 1 ∧ keysUnique (keyed [kBss, kPw]).ks
      ∧ ksLookup (keyed [kBss, kPw]).ks .pairwise s2 0 = none
      ∧ ksLookup (keyed [kBss, kPw]).ks .group bss (BitVec.ofNat 2 1) = some 0
      ∧ ksLookup (keyed [kBss, kPw]).ks .group bss (BitVec.ofNat 2 3) = none ∧ 4 ≤ 4 ∧ 2 ≤ 2 := by decide
/-- A refused entry 0, index past the end, reserved state, group address and taken address; a kept address; a free entry; an entry
with frames. -/
theorem witness_StaSet :
    (¬ 1 ≤ 0 ∧ ¬ 4 < (stationed st1 st2).st.length ∧ ¬ 3 < 3 ∧ mc.b0.getLsbD 0 = true
        ∧ (1 ≠ 2 ∧ (stationed st1 st2).st[1]? = some st1 ∧ st1.valid = true ∧ st1.addr = s1))
      ∧ ((stationed st1 st2).st[2]? = some st2 ∧ st2.addr = s2 ∧ s2.b0.getLsbD 0 = false)
      ∧ ((stationed st1 st2).st[3]? = some StaEntry.invalid ∧ StaEntry.invalid.q = [] ∧ 3 < (stationed st1 st2).st.length)
      ∧ (stationed st1 { st2 with q := [packet] }).st[2]? = some { st2 with q := [packet] } := by decide
theorem witness_StaSet_not_taken :
    ¬ ∃ j e, j ≠ 3 ∧ (stationed st1 st2).st[j]? = some e ∧ e.valid = true ∧ e.addr = src := by
  rintro ⟨j, e, -, h1, h2, h3⟩
  have hm : e ∈ (stationed st1 st2).st := List.mem_of_getElem? h1
  have key : ∀ x ∈ (stationed st1 st2).st, ¬ (x.valid = true ∧ x.addr = src) := by decide
  exact key e hm ⟨h2, h3⟩
theorem witness_StaDelPsPop :
    (stationed st1 st2).st.length ≤ 4 ∧ (stationed st1 st2).st[3]? = some StaEntry.invalid ∧ StaEntry.invalid.valid = false
      ∧ (stationed st1 st2).st[2]? = some st2 ∧ st2.valid = true ∧ st2.q = []
      ∧ (stationed st1 { st2 with q := [packet] }).st[2]? = some { st2 with q := [packet] } := by decide
theorem witness_Sta0ClearStatRead :
    base.st = StaEntry.virtual :: List.replicate 3 StaEntry.invalid ∧ counterOfNat 0 = some .malformed
      ∧ counterOfNat 13 = some .duplicate ∧ 14 ≤ 14 := by decide
/-- A reading of the last record of the store, of an invalid record, and of the first handle beyond the store. -/
theorem witness_key_reading :
    ((ported [.readKey 1] (keyed [kBss, kPw])).env.port = .readKey 1 :: [] ∧ (keyed [kBss, kPw]).ks[1]? = some kPw
        ∧ (keyed [kBss, kPw]).lock = false)
      ∧ ((keyed [kBss, KeyRec.invalid]).ks[1]? = some KeyRec.invalid ∧ KeyRec.invalid.valid = false)
      ∧ ((ported [.readKey 2, .yield] (keyed [kBss, kPw])).env.port = .readKey 2 :: [.yield] ∧ (keyed [kBss, kPw]).ks.length ≤ 2)
      ∧ (ported [.readKey 0] filtering).env.port = .readKey 0 :: [] ∧ filtering.lock = true := by decide
/-- R346: the reading answers with the record, replay counter included, and leaves the store alone; R340: not during a pass;
R410: of a deleted key it tells nothing. -/
theorem test_key_reading :
    (replyOf (step (ported [.readKey 1] (keyed [kBss, kPw]))) = some (.key (some kPw))
        ∧ (nextOf (step (ported [.readKey 1] (keyed [kBss, kPw])))).map (fun t => t.ks) = some [kBss, kPw])
      ∧ replyOf (step (ported [.readKey 0] filtering)) = some .refused
      ∧ replyOf (step (ported [.readKey 0] (keyed [{ kPw with valid := false }]))) = some (.key none) := by decide
theorem witness_LockedHostRefused :
    isHostOperation (.hStaDel 1) = true ∧ Instr.hStaDel 1 ≠ .hReset ∧ filtering.lock = true
      ∧ isHostOperation (.hFrameIn [] 0 info) = true := by decide

end Sys2Proof.Tests
end

section
/-! SUPPORT. How an operation ends, as one predicate with one rule per action: the way every operation's effect is read off its
pseudocode, line by line, completion, raise and stuckness at once. -/
namespace Sys2Proof.Machine

variable {α β : Type}

/-- The action, started in `s`, completes with an answer and a state in `Q`, or raises in a state in `E`, or is stuck, which it
is only where `B` holds: `B = True` asks nothing, `B = False` says that the action is never stuck. -/
def Act.Ends (m : Act α) (s : State) (Q : α → State → Prop) (E : State → Prop) (B : Prop) : Prop :=
  match m.run s with
  | .ok a t => Q a t
  | .error (.raise _) t => E t
  | .error (.stuck _) _ => B

/-- The frame is there and its memory is in form. -/
abbrev FrameReady (x : Option Frame) : Prop := x.isSome = true ∧ Memory.wf x = true

section Rules
variable {s : State} {Q : α → State → Prop} {E : State → Prop} {B : Prop}

theorem ends_of_ok {m : Act α} {a : α} {t : State} (h : m.run s = .ok a t) (q : Q a t) : m.Ends s Q E B := by
  simpa [Act.Ends, h] using q

theorem ends_of_raise {m : Act α} {r : Reason} {t : State} (h : m.run s = .error (.raise r) t) (e : E t) :
    m.Ends s Q E B := by
  simpa [Act.Ends, h] using e

theorem ends_of_stuck {m : Act α} {f : Fault} {t : State} (h : m.run s = .error (.stuck f) t) (b : B) : m.Ends s Q E B := by
  simpa [Act.Ends, h] using b

/-! ### Composition -/

theorem ends_bind {m : Act β} {f : β → Act α} (h : m.Ends s (fun b t => (f b).Ends t Q E B) E B) :
    (m >>= f).Ends s Q E B := by
  unfold Act.Ends at h ⊢
  rw [EStateM.run_bind]
  cases hm : m.run s with
  | ok b t => simpa [hm] using h
  | error x t => cases x <;> simpa [hm] using h

theorem ends_mono {m : Act α} {Q' : α → State → Prop} (h : m.Ends s Q' E B) (hq : ∀ a t, Q' a t → Q a t) :
    m.Ends s Q E B := by
  unfold Act.Ends at h ⊢
  cases hm : m.run s with
  | ok a t => exact hq a t (by simpa [hm] using h)
  | error x t => cases x <;> simpa [hm] using h

/-- A helper's rule used inside a longer operation. -/
theorem ends_bind_of {m : Act β} {f : β → Act α} {Q' : β → State → Prop} (h : m.Ends s Q' E B)
    (hf : ∀ b t, Q' b t → (f b).Ends t Q E B) : (m >>= f).Ends s Q E B :=
  ends_bind (ends_mono h hf)

theorem ends_pure {a : α} (q : Q a s) : (pure a : Act α).Ends s Q E B := q

/-! ### Actions that end early -/

theorem ends_raise {r : Reason} {Q : Unit → State → Prop} (e : E s) : (raise r).Ends s Q E B := e

theorem ends_require {c : Bool} {r : Reason} {Q : Unit → State → Prop} (e : E s) (q : c = true → Q () s) :
    (require c r).Ends s Q E B := by
  cases c
  · exact e
  · exact q rfl

theorem ends_demand {f : Fault} {o : Option α} (b : o = none → B) (q : ∀ a, o = some a → Q a s) :
    (demand f o).Ends s Q E B := by
  cases o with
  | none => exact b rfl
  | some a => exact q a rfl

/-! ### Reads -/

theorem ends_readCtx {r : CtxReg} {get : Ctx → Option α} (b : get s.ctx = none → B)
    (q : ∀ a, get s.ctx = some a → Q a s) : (readCtx r get).Ends s Q E B := by
  unfold Act.Ends
  rw [readCtx_apply]
  cases h : get s.ctx with
  | none => exact b h
  | some a => exact q a h

theorem ends_look {f : State → α} (q : Q (f s) s) : (look f).Ends s Q E B := q

theorem ends_theFrame {Q : Frame → State → Prop} (b : s.frm = none → B) (q : ∀ f, s.frm = some f → Q f s) :
    theFrame.Ends s Q E B := by
  cases h : s.frm with
  | none => exact ends_of_stuck (f := .noFrame) (t := s) (by simp [theFrame, EStateM.run, h]) (b h)
  | some f => exact ends_of_ok (theFrame_some h) (q f h)

theorem ends_frmLen {Q : Nat → State → Prop} (b : s.frm = none → B) (q : ∀ f, s.frm = some f → Q f.len s) :
    frmLen.Ends s Q E B := by
  cases h : s.frm with
  | none => exact ends_of_stuck (f := .noFrame) (t := s) (by simp [frmLen, EStateM.run, h]) (b h)
  | some f => exact ends_of_ok (frmLen_some h) (q f h)

theorem ends_memRead {off n : Nat} {Q : List Byte → State → Prop} (b : ¬ FrameReady s.frm → B) (e : E s)
    (q : ∀ f, s.frm = some f → off + n ≤ f.len → Q (f.slice off n) s) : (memRead off n).Ends s Q E B := by
  cases h : s.frm with
  | none => exact ends_of_stuck (f := .noFrame) (t := s) (by simp [memRead, EStateM.run, h]) (b (by simp [h]))
  | some f =>
    by_cases hl : off + n ≤ f.len
    · by_cases hw : f.buf.length < f.head + off + n
      · refine ends_of_stuck (f := .bufferOverrun) (t := s) ?_ (b ?_)
        · simp [memRead, EStateM.run, h, hw, Nat.not_lt.2 hl]
        · rw [h, FrameReady, wf_some]
          omega
      · refine ends_of_ok ?_ (q f h hl)
        simp [memRead, EStateM.run, h, hw, Nat.not_lt.2 hl]
    · exact ends_of_raise (memRead_of_short h (by omega)) e

theorem ends_keyAt {h : Nat} {Q : KeyRec → State → Prop} (b : s.ks[h]? = none → B)
    (q : ∀ k, s.ks[h]? = some k → Q k s) : (keyAt h).Ends s Q E B := by
  cases e : s.ks[h]? with
  | none => exact ends_of_stuck (f := .noKeyRecord) (t := s) (by simp [keyAt, EStateM.run, e]) (b e)
  | some k => exact ends_of_ok (keyAt_some e) (q k e)

/-- The record of CTX.KEY is there when CTX.KEY holds the handle of a record. -/
theorem ends_theKey {Q : KeyRec → State → Prop} (b : s.ctx.key.bind (s.ks[·]?) = none → B)
    (q : ∀ h k, s.ctx.key = some h → s.ks[h]? = some k → Q k s) : theKey.Ends s Q E B := by
  cases e : s.ctx.key with
  | none =>
    exact ends_of_stuck (f := .ctxUnwritten .key) (t := s) (by simp [theKey, EStateM.run, e]) (b (by simp [e]))
  | some h =>
    cases e' : s.ks[h]? with
    | none => exact ends_of_stuck (f := .noKeyRecord) (t := s) (by simp [theKey, EStateM.run, e, e']) (b (by simp [e, e']))
    | some k => exact ends_of_ok (theKey_some e e') (q h k e e')

theorem ends_staAt {i : Nat} {Q : StaEntry → State → Prop} (b : s.st[i]? = none → B)
    (q : ∀ e, s.st[i]? = some e → Q e s) : (staAt i).Ends s Q E B := by
  cases h : s.st[i]? with
  | none => exact ends_of_stuck (f := .noStation) (t := s) (by simp [staAt, EStateM.run, h]) (b h)
  | some e => exact ends_of_ok (staAt_some h) (q e h)

theorem ends_requireTa {Q : Addr → State → Prop} (e : E s) (q : ∀ a, s.ctx.ta = some a → Q a s) :
    requireTa.Ends s Q E B := by
  cases h : s.ctx.ta with
  | none => exact ends_of_raise (r := .malformedTruncated) (t := s) (by simp [requireTa, EStateM.run, h]) e
  | some a => exact ends_of_ok (a := a) (t := s) (by simp [requireTa, EStateM.run, h]) (q a h)

/-! ### Writes -/

variable {Q : Unit → State → Prop}

theorem ends_writeCtx {f : Ctx → Ctx} (q : Q () { s with ctx := f s.ctx }) : (writeCtx f).Ends s Q E B := q

theorem ends_setStage {x : Stage} (q : Q () { s with stage := x }) : (setStage x).Ends s Q E B := q

theorem ends_unlock (q : Q () { s with lock := false }) : unlock.Ends s Q E B := q

theorem ends_emit {e : Event} (q : Q () { s with out := s.out ++ [e] }) : (emit e).Ends s Q E B := q

theorem ends_count {c : Counter} (q : Q () { s with stat := s.stat.bump c }) : (count c).Ends s Q E B := q

theorem ends_setFrame {x : Option Frame} (q : Q () { s with frm := x }) : (setFrame x).Ends s Q E B := q

theorem ends_memWrite {off : Nat} {v : List Byte} (b : ¬ FrameReady s.frm → B) (e : E s)
    (q : ∀ f, s.frm = some f → (FrameReady s.frm → FrameReady (some (f.write off v))) →
      Q () { s with frm := some (f.write off v) }) : (memWrite off v).Ends s Q E B := by
  cases h : s.frm with
  | none => exact ends_of_stuck (f := .noFrame) (t := s) (by simp [memWrite, EStateM.run, h]) (b (by simp [h]))
  | some f =>
    by_cases hl : off + v.length ≤ f.len
    · by_cases hw : f.buf.length < f.head + off + v.length
      · refine ends_of_stuck (f := .bufferOverrun) (t := s) ?_ (b ?_)
        · simp [memWrite, EStateM.run, h, hw, Nat.not_lt.2 hl]
        · rw [h, FrameReady, wf_some]
          omega
      · refine ends_of_ok ?_ (q f h fun r => ⟨rfl, wf_write (h ▸ r.2) (Nat.not_lt.1 hw)⟩)
        simp [memWrite, EStateM.run, h, hw, Nat.not_lt.2 hl]
    · exact ends_of_raise (memWrite_of_short h (by omega)) e

theorem ends_advanceHead {n : Nat} (b : s.frm = none → B) (e : E s)
    (q : ∀ f, s.frm = some f → (FrameReady s.frm → FrameReady (some (f.advance n))) →
      Q () { s with frm := some (f.advance n) }) : (advanceHead n).Ends s Q E B := by
  cases h : s.frm with
  | none => exact ends_of_stuck (f := .noFrame) (t := s) (by simp [advanceHead, EStateM.run, h]) (b h)
  | some f =>
    by_cases hl : n ≤ f.len
    · exact ends_of_ok (advanceHead_of_fits h hl) (q f h fun r => ⟨rfl, wf_advance (h ▸ r.2) hl⟩)
    · refine ends_of_raise (r := .malformedTruncated) (t := s) ?_ e
      simp [advanceHead, EStateM.run, h, Nat.lt_of_not_le hl]

theorem ends_truncateTail {n : Nat} (b : s.frm = none → B) (e : E s)
    (q : ∀ f, s.frm = some f → Q () { s with frm := some (f.truncate n) }) : (truncateTail n).Ends s Q E B := by
  cases h : s.frm with
  | none => exact ends_of_stuck (f := .noFrame) (t := s) (by simp [truncateTail, EStateM.run, h]) (b h)
  | some f =>
    by_cases hl : f.len < n
    · exact ends_of_raise (r := .malformedTruncated) (t := s) (by simp [truncateTail, EStateM.run, h, hl]) e
    · exact ends_of_ok (a := ()) (by simp [truncateTail, EStateM.run, h, hl]) (q f h)

theorem ends_replaceFrame {c : List Byte} (b : s.frm = none → B)
    (q : ∀ f, s.frm = some f → Q () { s with frm := some (f.replace c) }) : (replaceFrame c).Ends s Q E B := by
  cases h : s.frm with
  | none => exact ends_of_stuck (f := .noFrame) (t := s) (by simp [replaceFrame, EStateM.run, h]) (b h)
  | some f => exact ends_of_ok (replaceFrame_some c h) (q f h)

theorem ends_updateReplay {h : Nat} {lo : BitVec 16} {hi : BitVec 32}
    (q : Q () { s with ks := s.ks.modify h fun k => { k with tscLo := lo, tscHi := hi } }) :
    (updateReplay h lo hi).Ends s Q E B := q

/-- A write to an entry that is there sets it. -/
theorem ends_modifySta {i : Nat} {g : StaEntry → StaEntry} (b : s.st[i]? = none → B)
    (q : ∀ e, s.st[i]? = some e → Q () { s with st := s.st.set i (g e) }) : (modifySta i g).Ends s Q E B := by
  cases h : s.st[i]? with
  | none =>
    refine ends_of_stuck (f := .noStation) (t := s) ?_ (b h)
    simp [modifySta, EStateM.run, Nat.not_lt.2 (List.getElem?_eq_none_iff.1 h)]
  | some e =>
    refine ends_of_ok (modifySta_some h g) ?_
    rw [modify_eq_set h]
    exact q e h

theorem ends_theStation {Q : Nat → State → Prop} (b : s.ctx.sta.bind id = none → B)
    (q : ∀ i, s.ctx.sta = some (some i) → Q i s) : theStation.Ends s Q E B := by
  cases h : s.ctx.sta with
  | none =>
    exact ends_of_stuck (f := .ctxUnwritten .sta) (t := s) (by simp [theStation, EStateM.run, h]) (b (by simp [h]))
  | some o =>
    cases o with
    | none => exact ends_of_stuck (f := .noStation) (t := s) (by simp [theStation, EStateM.run, h]) (b (by simp [h]))
    | some i => exact ends_of_ok (theStation_some h) (q i h)

theorem ends_submitFrame {f : Frame} {Q : Answer → State → Prop} (q : ∀ a e, Q a { s with env := e }) :
    (submitFrame f).Ends s Q E B := by
  cases h : s.env.answers with
  | nil => exact ends_of_ok (submitFrame_free f h) (q _ _)
  | cons x rest => exact ends_of_ok (submitFrame_listed f h) (q _ _)

/-! ### The operation as a step -/

/-- A step of an operation, from how the operation ends. -/
theorem finish_cases_of_ends {m : Act Unit} {t : State} (h : m.Ends s Q E B) (e : finish m s = .next t) :
    Q () t ∨ ∃ r u, E u ∧ t = dropPath r u := by
  unfold Act.Ends at h
  obtain ho | ⟨r, u, hr, rfl⟩ := finish_next_iff.1 e
  · exact .inl (by simpa [ho] using h)
  · exact .inr ⟨r, u, by simpa [hr] using h, rfl⟩

/-- An operation that is never stuck has a next state. -/
theorem finish_next_of_ends {m : Act Unit} (h : m.Ends s Q E False) : ∃ t, finish m s = .next t := by
  unfold Act.Ends at h
  cases hm : m.run s with
  | ok a t => exact ⟨t, finish_of_ok hm⟩
  | error x t =>
    cases x with
    | raise r => exact ⟨_, finish_of_raise hm⟩
    | stuck f => simp [hm] at h

end Rules

end Sys2Proof.Machine
end

section
/-! SUPPORT. What a pass may do to the station table, and how the parts of the invariant that speak of the two tables survive one
written entry (R37, R42, R43, R44, R388). -/
namespace Sys2Proof.Machine

/-! ### One written entry of a list in which every two entries are related -/

theorem pairwise_set {γ : Type} {R : γ → γ → Prop} (symm : ∀ a b, R a b → R b a) {l : List γ} (hl : l.Pairwise R) {i : Nat}
    {x : γ} (hx : ∀ (j : Nat) (y : γ), j ≠ i → l[j]? = some y → R x y) : (l.set i x).Pairwise R := by
  rw [List.pairwise_iff_getElem] at hl ⊢
  intro a b ha hb hab
  rw [List.length_set] at ha hb
  rw [List.getElem_set, List.getElem_set]
  split
  · next h =>
    subst h
    rw [if_neg (by omega)]
    exact hx b _ (by omega) (List.getElem?_eq_getElem hb)
  · next h =>
    split
    · next h' => exact symm _ _ (hx a _ (by omega) (List.getElem?_eq_getElem ha))
    · exact hl a b ha hb hab

/-- Two entries that are not related stand at one place. -/
theorem index_eq_of_pairwise {γ : Type} {R : γ → γ → Prop} (symm : ∀ a b, R a b → R b a) {l : List γ} (hl : l.Pairwise R)
    {i j : Nat} {a b : γ} (hi : l[i]? = some a) (hj : l[j]? = some b) (hn : ¬ R a b) : i = j := by
  obtain ⟨hil, rfl⟩ := List.getElem?_eq_some_iff.1 hi
  obtain ⟨hjl, rfl⟩ := List.getElem?_eq_some_iff.1 hj
  rw [List.pairwise_iff_getElem] at hl
  rcases Nat.lt_trichotomy i j with hlt | heq | hgt
  · exact absurd (hl i j hil hjl hlt) hn
  · exact heq
  · exact absurd (symm _ _ (hl j i hjl hil hgt)) hn

/-- A field that a written entry keeps is kept of the whole list. -/
theorem map_set_of_eq {γ δ : Type} {l : List γ} {i : Nat} {a x : γ} (h : l[i]? = some a) (f : γ → δ) (hf : f x = f a) :
    (l.set i x).map f = l.map f := by
  apply List.ext_getElem?
  intro j
  rw [List.getElem?_map, List.getElem?_map, List.getElem?_set]
  by_cases hj : i = j
  · subst hj
    obtain ⟨hi, rfl⟩ := List.getElem?_eq_some_iff.1 h
    simp [hi, hf]
  · simp [hj]

/-! ### The station table -/

/-- What no frame changes of a station: VALID, ADDR and STATE (R388). -/
def StaEntry.identity (e : StaEntry) : Bool × Addr × Assoc := (e.valid, e.addr, e.assoc)

/-- What the operations of a pass may do to the station table: every station keeps its identity, and the queues keep their bound
(R44, R388). -/
structure StationsStep (cap : Nat) (st st' : List StaEntry) : Prop where
  identities : st'.map StaEntry.identity = st.map StaEntry.identity
  bounded : virtualStation st → queuesBounded cap st → queuesBounded cap st'

theorem virtualStation_iff {st : List StaEntry} :
    virtualStation st ↔ ∃ e, st[0]? = some e ∧ e.valid = true ∧ e.addr = Addr.broadcast := by
  cases st <;> simp [virtualStation]

theorem virtualStation_of_identities {st st' : List StaEntry} (h : st'.map StaEntry.identity = st.map StaEntry.identity)
    (hv : virtualStation st) : virtualStation st' := by
  have key : ∀ l : List StaEntry, l.head?.map (fun e => (e.valid, e.addr))
      = (l.map StaEntry.identity).head?.map fun p => (p.1, p.2.1) := by
    intro l
    cases l <;> rfl
  unfold virtualStation at hv ⊢
  rw [key, h, ← key, hv]

theorem stationsUnique_of_identities {st st' : List StaEntry} (h : st'.map StaEntry.identity = st.map StaEntry.identity)
    (hu : stationsUnique st) : stationsUnique st' := by
  have key : ∀ l : List StaEntry, stationsUnique l
      ↔ (l.map StaEntry.identity).Pairwise fun p q => ¬ (p.1 = true ∧ q.1 = true ∧ p.2.1 = q.2.1) := by
    intro l
    rw [List.pairwise_map]
    rfl
  rw [key] at hu ⊢
  rw [h]
  exact hu

/-- A lookup of a station sees nothing that a pass changes. -/
theorem stLookup_of_identities {st st' : List StaEntry} (h : st'.map StaEntry.identity = st.map StaEntry.identity) (a : Addr) :
    stLookup st' a = stLookup st a := by
  apply stLookup_congr
  have := congrArg (List.map fun p : Bool × Addr × Assoc => (p.1, p.2.1)) h
  rwa [List.map_map, List.map_map] at this

/-- The entry of an index keeps its STATE. -/
theorem assoc_of_identities {st st' : List StaEntry} (h : st'.map StaEntry.identity = st.map StaEntry.identity) {i : Nat}
    {e : StaEntry} (he : st[i]? = some e) : ∃ e', st'[i]? = some e' ∧ e'.assoc = e.assoc := by
  have hi := congrArg (fun l => l[i]?) h
  simp only [List.getElem?_map, he, Option.map_some, Option.map_eq_some_iff] at hi
  obtain ⟨e', he', hid⟩ := hi
  exact ⟨e', he', congrArg (fun p => p.2.2) hid⟩

/-- The queues keep their bound when the written entry's queue keeps it. -/
theorem queuesBounded_set {cap : Nat} {st : List StaEntry} {i : Nat} {x : StaEntry} (h : queuesBounded cap st)
    (hx : x.q.length ≤ cap ∧ (x.valid = false → x.q = [])) : queuesBounded cap (st.set i x) := by
  intro e he
  obtain hm | rfl := List.mem_or_eq_of_mem_set he
  · exact h e hm
  · exact hx

section StationsStep
variable {cap i : Nat} {st st' st'' : List StaEntry} {e x : StaEntry}

theorem StationsStep.refl : StationsStep cap st st := ⟨rfl, fun _ h => h⟩

theorem StationsStep.trans (h : StationsStep cap st st') (h' : StationsStep cap st' st'') : StationsStep cap st st'' :=
  ⟨h'.identities.trans h.identities,
    fun hv hq => h'.bounded (virtualStation_of_identities h.identities hv) (h.bounded hv hq)⟩

/-- A station's flags are written and its queue kept or emptied. -/
theorem StationsStep.flags (he : st[i]? = some e) (hx : x.identity = e.identity) (hq : x.q = e.q ∨ x.q = []) :
    StationsStep cap st (st.set i x) := by
  refine ⟨map_set_of_eq he _ hx, fun _ h => queuesBounded_set h ?_⟩
  have hv : x.valid = e.valid := congrArg Prod.fst hx
  obtain hq | hq := hq
  · rw [hq, hv]
    exact h e (List.mem_of_getElem? he)
  · simp [hq]

/-- A frame is put into the queue of a valid entry that has room (R186). -/
theorem StationsStep.push (he : st[i]? = some e) (hv : i = 0 ∨ e.valid = true) (hc : e.q.length < cap) (p : Packet) :
    StationsStep cap st (st.set i { e with q := e.q ++ [p] }) := by
  refine ⟨map_set_of_eq he _ rfl, fun hv0 h => queuesBounded_set h ⟨by simpa using hc, fun hf => ?_⟩⟩
  have hvalid : e.valid = true := by
    obtain rfl | hv := hv
    · obtain ⟨e0, h0, hv0, -⟩ := virtualStation_iff.1 hv0
      rw [h0] at he
      cases he
      exact hv0
    · exact hv
  simp [hvalid] at hf

end StationsStep

/-! ### The key store -/

theorem sameKey_iff {a b : KeyRec} :
    sameKey a b = true ↔ a.scope = b.scope ∧ a.addr = b.addr ∧ (a.scope = .group → a.kidx = b.kidx) := by
  unfold sameKey
  cases a.scope <;> simp [and_assoc]

theorem sameKey_symm {a b : KeyRec} (h : sameKey a b = true) : sameKey b a = true := by
  rw [sameKey_iff] at h ⊢
  obtain ⟨hs, ha, hk⟩ := h
  exact ⟨hs.symm, ha.symm, fun hg => (hk (hs.trans hg)).symm⟩

/-- A written record leaves the keys unique when no other valid record is the same key. -/
theorem keysUnique_set {ks : List KeyRec} {h : Nat} {k : KeyRec} (hu : keysUnique ks)
    (hk : ∀ j y, j ≠ h → ks[j]? = some y → ¬ (k.valid = true ∧ y.valid = true ∧ sameKey k y = true)) :
    keysUnique (ks.set h k) := by
  refine pairwise_set (fun a b hab hba => ?_) hu hk
  obtain ⟨hb, ha, hs⟩ := hba
  exact hab ⟨ha, hb, sameKey_symm hs⟩

/-- Where keys are unique two records that are the same key stand at one place. -/
theorem eq_of_sameKey {ks : List KeyRec} (hu : keysUnique ks) {i j : Nat} {a b : KeyRec} (hi : ks[i]? = some a)
    (hj : ks[j]? = some b) (ha : a.valid = true) (hb : b.valid = true) (hs : sameKey a b = true) : i = j :=
  index_eq_of_pairwise (fun _ _ hab ⟨hb, ha, h⟩ => hab ⟨ha, hb, sameKey_symm h⟩) hu hi hj fun h => h ⟨ha, hb, hs⟩

theorem keyLengths_set {ks : List KeyRec} {h : Nat} {k : KeyRec} (hl : keyLengths ks)
    (hk : k.valid = true → 1 ≤ k.material.length ∧ k.material.length ≤ Config.maxKeyLen) : keyLengths (ks.set h k) := by
  intro x hx hv
  obtain hm | rfl := List.mem_or_eq_of_mem_set hx
  · exact hl x hm hv
  · exact hk hv

end Sys2Proof.Machine
end

section
/-! SUPPORT. What one operation of a pass can do, said once: `PassStep` has one constructor per way an operation completes,
`Raised` is what an operation may have done before a raise (R386), and one lemma per operation says that it ends in one of them. -/
namespace Sys2Proof.Machine

/-! ### Before a raise -/

/-- What an operation has done when it raises: no table, counter or register of the configuration is written, and nothing that
ends a pass was emitted (R330, R386). -/
structure Raised (s u : State) : Prop where
  cfg : u.cfg = s.cfg
  par : u.par = s.par
  ks : u.ks = s.ks
  st : u.st = s.st
  stat : u.stat = s.stat
  out : ∃ es, u.out = s.out ++ es ∧ ∀ e ∈ es, e.ends = false

/-- Most operations have written nothing but the context and the frame. -/
theorem Raised.of_ctx_frm {s : State} {c : Ctx} {x : Option Frame} : Raised s { s with ctx := c, frm := x } :=
  ⟨rfl, rfl, rfl, rfl, rfl, [], by simp, by simp⟩

/-! ### Where the operations of a pass stand -/

/-- Past the filter, or where none runs (R312, lines 4 to 8). -/
abbrev Filtered (s : State) : Prop :=
  (s.stage = .classified ∧ (s.cfg.apMode = false ∨ s.ctx.tag = some .mgmt)) ∨ s.stage = .apFiltered

/-- The context that CLASSIFY leaves: its registers written, the transmitter among them for a data frame (R143, R149, R151). -/
def ClassifiedCtx (c₀ c : Ctx) : Prop :=
  ∃ fc tag w p h m f ta,
    c = { c₀ with
      fc := some fc, tag := some tag, isWep := some w, isPspoll := some p, hdrlen := some h, isMcast := some m,
      isFrag := some f, ta := ta }
    ∧ (tag = .data → ta.isSome = true)

/-- What an operation of a pass does when it completes, by where the pass stands. -/
inductive PassStep (s : State) : State → Prop where
  /-- LENCHK (R141) -/
  | lenchk (at_ : s.stage = .raw) : PassStep s { s with stage := .lengthValidated }
  /-- CLASSIFY (R143) -/
  | classify {c : Ctx} (at_ : s.stage = .lengthValidated) (hc : ClassifiedCtx s.ctx c) :
      PassStep s { s with ctx := c, stage := .classified }
  /-- APCTL, for an Associated transmitter (R162) -/
  | apctl {a : Addr} {i : Nat} {e : StaEntry} {st : List StaEntry} {es : List Event} (at_ : s.stage = .classified)
      (ta : s.ctx.ta = some a) (found : stLookup s.st a = some i) (entry : s.st[i]? = some e) (assoc : e.assoc = .associated)
      (stations : StationsStep s.par.psqCap s.st st) (events : ∀ x ∈ es, x.ends = false) :
      PassStep s { s with
        ctx := { s.ctx with sta := some (some i) }, st := st, out := s.out ++ es, stage := .apFiltered }
  /-- IVPARSE (R203) -/
  | ivparse (at_ : Filtered s) (iv : Iv4) (ki : BitVec 2) (x : Bool) :
      PassStep s { s with ctx := { s.ctx with iv := some iv, kidx := some ki, extIv := some x } }
  /-- KEYSEL (R207) -/
  | keysel {h : Nat} (at_ : Filtered s) (pw : Bool) (record : h < s.ks.length) :
      PassStep s { s with ctx := { s.ctx with usePw := some pw, key := some h } }
  /-- CIPHERCHK (R212) -/
  | cipherchk (at_ : Filtered s) (fresh : s.ctx.suite = none) (su : Suite) :
      PassStep s { s with ctx := { s.ctx with suite := some su } }
  /-- DEC.WEP, DEC.TKIP, DEC.CCMP (R218, R222, R228) -/
  | decipher {su : Suite} {lo : Option (BitVec 16)} {hi : Option (BitVec 32)} {x : Option Frame} (at_ : Filtered s)
      (key : s.ctx.key.isSome = true) (suite : s.ctx.suite = some su)
      (tsc : su = .tkip ∨ su = .ccmp → lo.isSome = true ∧ hi.isSome = true) (frame : FrameReady s.frm → FrameReady x) :
      PassStep s { s with frm := x, ctx := { s.ctx with tscLo := lo, tscHi := hi, decryptOk := some true } }
  /-- STRIP (R232) -/
  | strip {x : Option Frame} (at_ : Filtered s) (tag : s.ctx.tag = some .data) (ok : s.ctx.decryptOk.isSome = true)
      (frame : FrameReady s.frm → FrameReady x) :
      PassStep s { s with frm := x, ctx := { s.ctx with dec := true }, stage := .decrypted }
  /-- DEFRAG, for a completed frame (R266) -/
  | defrag {env : Env} {x : Option Frame} (at_ : Filtered s ∨ s.stage = .decrypted) (tag : s.ctx.tag = some .data)
      (frame : FrameReady x) : PassStep s { s with env := env, frm := x, stage := .defragmented }
  /-- RPLCHK, for an accepted value (R252) -/
  | rplchk {h : Nat} {k : KeyRec} {lo : BitVec 16} {hi : BitVec 32} (at_ : s.stage = .decrypted ∨ s.stage = .defragmented)
      (record : s.ks[h]? = some k) (accepted : tscAccepted hi k.tscHi lo k.tscLo = true) :
      PassStep s { s with ks := s.ks.set h { k with tscLo := lo, tscHi := hi }, stage := .replayChecked }
  /-- HDRXLT (R296) -/
  | hdrxlt {x : Option Frame}
      (at_ : Filtered s ∨ s.stage = .decrypted ∨ s.stage = .defragmented ∨ s.stage = .replayChecked)
      (tag : s.ctx.tag = some .data) (da sa : Addr)
      (frame : FrameReady s.frm → FrameReady x) :
      PassStep s { s with frm := x, ctx := { s.ctx with da := some da, sa := some sa }, stage := .headerTranslated }
  /-- ROUTE (R180): the frame stays, or has been moved into its destination's queue -/
  | route {r : Route} {b : Bool} {x : Option Frame} {st : List StaEntry} (at_ : s.stage = .headerTranslated)
      (ap : s.cfg.apMode = true) (first : s.ctx.route = none) (stations : StationsStep s.par.psqCap s.st st)
      (frame : x = s.frm ∨ (x = none ∧ ∃ i, r = .queuedSta i)) :
      PassStep s { s with frm := x, ctx := { s.ctx with route := some r, toStack := some b }, st := st }
  /-- ROUTE.MCQ whose clone the full queue refuses (R184) -/
  | cloneRefused (at_ : s.stage = .headerTranslated) (ap : s.cfg.apMode = true) (first : s.ctx.route = none) :
      PassStep s { s with
        ctx := { s.ctx with route := some .queuedMcast, toStack := some true }, stat := s.stat.bump .psqOverflow }
  /-- MGMT_DISPATCH and DELIVER (R316, R324) -/
  | delivered {c : Ctx} {e : Event} (ends : e.ends = true) :
      PassStep s { s with ctx := c, out := s.out ++ [e], frm := none, stage := .delivered, lock := false }

/-- How an operation of a pass ends, read as a step. -/
abbrev PassEnds (m : Act Unit) (s : State) (B : Prop) : Prop := m.Ends s (fun _ t => PassStep s t) (Raised s) B

section Operations
variable {s : State} {B : Prop}

/-! ### The classifier -/

theorem opLenchk_ends (at_ : s.stage = .raw) (hw : s.ctx.wlen = none → B) (hf : s.frm = none → B) :
    PassEnds opLenchk s B :=
  ends_bind <| ends_readCtx hw fun _ _ => ends_bind <| ends_require .of_ctx_frm fun _ =>
  ends_bind <| ends_frmLen hf fun _ _ => ends_bind <| ends_require .of_ctx_frm fun _ =>
  ends_setStage <| .lenchk at_

theorem headerLength_ge (fc : BitVec 16) : 24 ≤ headerLength fc := by
  unfold headerLength
  cases hdrRow fc <;> decide

section Pieces
variable {E : State → Prop}

theorem readFc_ends (hf : ¬ FrameReady s.frm → B) (e : E s) : readFc.Ends s (fun _ t => t = s) E B :=
  ends_bind <| ends_memRead hf e fun _ _ _ => ends_pure rfl

theorem readAddr_ends {off : Nat} (hf : ¬ FrameReady s.frm → B) (e : E s) : (readAddr off).Ends s (fun _ t => t = s) E B :=
  ends_bind <| ends_memRead hf e fun _ _ _ => ends_pure rfl

theorem readFragno_ends {l : Nat} (hf : ¬ FrameReady s.frm → B) (e : E s) : (readFragno l).Ends s (fun _ t => t = s) E B := by
  unfold readFragno
  split
  · exact ends_bind <| ends_memRead hf e fun _ _ _ => ends_pure rfl
  · exact ends_pure rfl

theorem runType_ends {r : TypeRow} (e : E s) :
    (runType r).Ends s (fun _ t => ∃ tag, t = { s with ctx := { s.ctx with tag := some tag } } ∧ (tag = .data → r = .data)) E B := by
  cases r with
  | mgmt =>
    unfold runType opClsMgmt
    exact ends_writeCtx ⟨.mgmt, rfl, nofun⟩
  | ctrl =>
    unfold runType opClsCtrl
    exact ends_writeCtx ⟨.ctrl, rfl, nofun⟩
  | data =>
    unfold runType opClsData
    exact ends_writeCtx ⟨.data, rfl, fun _ => rfl⟩
  | rsvd => exact ends_raise e

theorem runPspoll_ends {hit : Bool} :
    (if hit then opClsPspoll else notPspoll : Act Unit).Ends s
      (fun _ t => ∃ p, t = { s with ctx := { s.ctx with isPspoll := some p } }) E B := by
  unfold opClsPspoll notPspoll
  split
  · exact ends_writeCtx ⟨true, rfl⟩
  · exact ends_writeCtx ⟨false, rfl⟩

theorem runHdr_ends {r : HdrRow} :
    (runHdr r).Ends s (fun _ t => ∃ h, t = { s with ctx := { s.ctx with hdrlen := some h } }) E B := by
  unfold runHdr opHdrA4 opHdrA3
  cases r
  · exact ends_writeCtx ⟨_, rfl⟩
  · exact ends_writeCtx ⟨_, rfl⟩

theorem captureTa_ends {l : Nat} (hf : ¬ FrameReady s.frm → B) (e : E s) :
    (captureTa l).Ends s (fun _ t => ∃ ta, t = { s with ctx := { s.ctx with ta := ta } } ∧ (16 ≤ l → ta.isSome = true)) E B := by
  unfold captureTa
  split
  · exact ends_bind_of (readAddr_ends hf e) fun a _ h => h ▸ ends_writeCtx ⟨some a, rfl, fun _ => rfl⟩
  · next hl => exact ends_pure ⟨s.ctx.ta, rfl, fun h => absurd h hl⟩

end Pieces

theorem opClassify_ends (at_ : s.stage = .lengthValidated) (hf : ¬ FrameReady s.frm → B) : PassEnds opClassify s B := by
  have hn : s.frm = none → B := fun h => hf (by simp [h])
  refine ends_bind_of (readFc_ends hf .of_ctx_frm) ?_
  rintro fc _ rfl
  refine ends_bind <| ends_writeCtx <| ends_bind_of (runType_ends .of_ctx_frm) ?_
  rintro _ _ ⟨tag, rfl, htag⟩
  refine ends_bind <| ends_writeCtx <| ends_bind_of runPspoll_ends ?_
  rintro _ _ ⟨p, rfl⟩
  refine ends_bind_of runHdr_ends ?_
  rintro _ _ ⟨h, rfl⟩
  refine ends_bind_of (readAddr_ends hf .of_ctx_frm) ?_
  rintro a1 _ rfl
  refine ends_bind <| ends_writeCtx <| ends_bind <| ends_frmLen hn fun f _ => ?_
  refine ends_bind_of (readFragno_ends hf .of_ctx_frm) ?_
  rintro fragno _ rfl
  refine ends_bind <| ends_writeCtx <| ends_bind_of (captureTa_ends hf .of_ctx_frm) ?_
  rintro _ _ ⟨ta, rfl, hta⟩
  refine ends_bind <| ends_require .of_ctx_frm fun hlen => ends_setStage ?_
  refine .classify at_ ⟨_, _, _, _, _, _, _, _, rfl, fun hd => hta ?_⟩
  have := headerLength_ge fc
  simp only [htag hd, beq_self_eq_true, Bool.true_and, Bool.not_eq_true', decide_eq_false_iff_not] at hlen
  omega

/-! ### The access-point filter -/

/-- The word of STA3 by what the lookup found (R121). -/
theorem sta3Row_cases (e : Option StaEntry) :
    sta3Row (sta3Word e) = .deauth ∨ sta3Row (sta3Word e) = .disassoc
      ∨ (sta3Row (sta3Word e) = .passOn ∧ ∃ x, e = some x ∧ x.assoc = .associated) := by
  cases e with
  | none => exact .inl rfl
  | some x =>
    cases h : x.assoc with
    | unauthenticated => exact .inl (by simp only [sta3Word, h]; rfl)
    | authenticated => exact .inr (.inl (by simp only [sta3Word, h]; rfl))
    | associated => exact .inr (.inr ⟨by simp only [sta3Word, h]; rfl, x, rfl, h⟩)

/-- The rows of PSW3: the stations keep their identity, the events do not end the pass (R169 to R173). -/
theorem runPsw3_ends {r : Psw3Row} {i : Nat} {e : StaEntry} {E : State → Prop} (hi : s.ctx.sta = some (some i))
    (he : s.st[i]? = some e) :
    (runPsw3 r).Ends s (fun _ t => ∃ st es, t = { s with st := st, out := s.out ++ es }
      ∧ StationsStep s.par.psqCap s.st st ∧ ∀ x ∈ es, x.ends = false) E B := by
  have hsta : s.ctx.sta.bind id = none → B := by simp [hi]
  have entry : ∀ {j : Nat}, s.ctx.sta = some (some j) → s.st[j]? = some e := by simp [hi, he]
  cases r with
  | pspoll =>
    refine ends_bind <| ends_theStation hsta fun j hj => ?_
    refine ends_bind <| ends_modifySta (by simp [entry hj]) fun x hx => ends_emit ?_
    exact ⟨_, [.psDeliverOne j], rfl, .flags hx rfl (.inl rfl), by simp [Event.ends]⟩
  | pswake =>
    refine ends_bind <| ends_theStation hsta fun j hj => ?_
    refine ends_bind <| ends_staAt (by simp [entry hj]) fun y _ => ?_
    refine ends_bind <| ends_modifySta (by simp [entry hj]) fun x hx => ends_emit ?_
    exact ⟨_, [.psFlush j y.q], rfl, .flags hx rfl (.inr rfl), by simp [Event.ends]⟩
  | psset =>
    have hlen : (s.st.set i { e with ps := true })[0]? ≠ none := by
      have := (List.getElem?_eq_some_iff.1 he).1
      simp only [ne_eq, List.getElem?_eq_none_iff, List.length_set]
      omega
    refine ends_bind <| ends_theStation hsta fun j hj => ?_
    refine ends_bind <| ends_modifySta (by simp [entry hj]) fun x hx => ?_
    obtain rfl : i = j := by simpa [hi] using hj
    obtain rfl : e = x := by simpa [he] using hx
    refine ends_modifySta (fun h => absurd h hlen) fun y hy => ?_
    have first : StationsStep s.par.psqCap s.st (s.st.set i { e with ps := true }) := .flags he rfl (.inl rfl)
    exact ⟨_, [], by rw [List.append_nil], first.trans (.flags (x := { y with ps := true }) hy rfl (.inl rfl)), by simp⟩
  | psnop => exact ends_pure ⟨s.st, [], by simp, .refl, by simp⟩

theorem opApctl_ends (at_ : s.stage = .classified) (hp : s.ctx.isPspoll = none → B) (hfc : s.ctx.fc = none → B) :
    PassEnds opApctl s B := by
  refine ends_bind <| ends_requireTa .of_ctx_frm fun a ha => ?_
  refine ends_bind <| ends_look <| ends_bind <| ends_writeCtx ?_
  have hta : ∀ c : Option (Option Nat), (Ctx.ta { s.ctx with sta := c } = none → B) := by simp [ha]
  obtain h | h | ⟨h, e, hfound, hassoc⟩ := sta3Row_cases ((stLookup s.st a).bind fun i => s.st[i]?) <;> rw [h]
  · refine ends_bind <| ends_readCtx (hta _) fun a _ => ends_bind <| ends_emit <| ends_raise ?_
    exact ⟨rfl, rfl, rfl, rfl, rfl, [.actionDeauth a 6], rfl, by simp [Event.ends]⟩
  · refine ends_bind <| ends_readCtx (hta _) fun a _ => ends_bind <| ends_emit <| ends_raise ?_
    exact ⟨rfl, rfl, rfl, rfl, rfl, [.actionDisassoc a 7], rfl, by simp [Event.ends]⟩
  · obtain ⟨i, hi, he⟩ := Option.bind_eq_some_iff.1 hfound
    refine ends_bind <| ends_theStation (by simp [hi]) fun j hj => ?_
    obtain rfl : i = j := by simpa [hi] using hj
    refine ends_bind <| ends_staAt (by simp [he]) fun _ _ => ?_
    refine ends_bind <| ends_readCtx hp fun _ _ => ends_bind <| ends_readCtx hfc fun _ _ => ?_
    refine ends_bind_of (runPsw3_ends hj he) ?_
    rintro _ _ ⟨st, es, rfl, hst, hes⟩
    rw [hi]
    exact ends_setStage <| .apctl at_ ha hi he hassoc hst hes

/-! ### The decryption dispatcher -/

section Pieces
variable {E : State → Prop}

theorem readHdrlen_ends (hh : s.ctx.hdrlen = none → B) : readHdrlen.Ends s (fun _ t => t = s) E B :=
  ends_bind <| ends_readCtx hh fun _ _ => ends_pure rfl

/-- The lookup of the row that condition (a) selects finds a record of the store, if any. -/
theorem runKsel1_ends {r : Ksel1Row} (hta : s.ctx.ta = none → B) (hki : s.ctx.kidx = none → B) :
    (runKsel1 r).Ends s (fun k t => ∃ pw, t = { s with ctx := { s.ctx with usePw := some pw } }
      ∧ ∀ h, k = some h → h < s.ks.length) E B := by
  have bound : ∀ {sc a ki h}, ksLookup s.ks sc a ki = some h → h < s.ks.length := fun e => by
    obtain ⟨k, hk, -⟩ := ksLookup_some e
    exact (List.getElem?_eq_some_iff.1 hk).1
  cases r with
  | pw =>
    refine ends_bind <| ends_writeCtx <| ends_bind <| ends_readCtx hta fun _ _ => ?_
    exact ends_bind <| ends_look <| ends_pure ⟨true, rfl, fun _ => bound⟩
  | grp =>
    refine ends_bind <| ends_writeCtx <| ends_bind <| ends_readCtx hki fun _ _ => ?_
    exact ends_bind <| ends_look <| ends_bind <| ends_look <| ends_pure ⟨false, rfl, fun _ => bound⟩

/-- The fallback leaves a key handle of the store written, or raises. -/
theorem orBroadcast_ends {k : Option Nat} (hki : s.ctx.kidx = none → B) (hk : ∀ h, k = some h → h < s.ks.length) (e : E s) :
    (orBroadcast k).Ends s (fun _ t => ∃ h, t = { s with ctx := { s.ctx with key := some h } } ∧ h < s.ks.length) E B := by
  cases k with
  | some h =>
    unfold orBroadcast keepKey
    exact ends_writeCtx ⟨h, rfl, hk h rfl⟩
  | none =>
    refine ends_bind <| ends_readCtx hki fun ki _ => ends_bind <| ends_look <| ends_bind <| ends_require e fun hs => ?_
    obtain ⟨h, hl⟩ := Option.isSome_iff_exists.1 hs
    obtain ⟨x, hx, -⟩ := ksLookup_some hl
    rw [hl]
    unfold keepKey
    exact ends_writeCtx ⟨h, rfl, (List.getElem?_eq_some_iff.1 hx).1⟩

end Pieces

theorem opIvparse_ends (at_ : Filtered s) (hh : s.ctx.hdrlen = none → B) (hf : ¬ FrameReady s.frm → B) :
    PassEnds opIvparse s B := by
  refine ends_bind_of (readHdrlen_ends hh) ?_
  rintro h _ rfl
  exact ends_bind <| ends_memRead hf .of_ctx_frm fun _ _ _ => ends_writeCtx <| .ivparse at_ _ _ _

theorem opKeysel_ends (at_ : Filtered s) (hm : s.ctx.isMcast = none → B) (hta : s.ctx.ta = none → B)
    (hki : s.ctx.kidx = none → B) : PassEnds opKeysel s B := by
  refine ends_bind <| ends_readCtx hm fun _ _ => ends_bind <| ends_look ?_
  refine ends_bind_of (runKsel1_ends hta hki) ?_
  rintro k _ ⟨pw, rfl, hk⟩
  refine ends_mono (orBroadcast_ends hki hk .of_ctx_frm) ?_
  rintro _ _ ⟨h, rfl, hh⟩
  exact .keysel at_ pw hh

theorem opCipherchk_ends (at_ : Filtered s) (fresh : s.ctx.suite = none) (hk : s.ctx.key.bind (s.ks[·]?) = none → B)
    (hpw : s.ctx.usePw = none → B) : PassEnds opCipherchk s B :=
  ends_bind <| ends_theKey hk fun _ _ _ _ => ends_bind <| ends_readCtx hpw fun _ _ => ends_bind <| ends_look <|
  ends_bind <| ends_require .of_ctx_frm fun _ => ends_writeCtx <| .cipherchk at_ fresh _

section Ciphers
variable (at_ : Filtered s) (hx : s.ctx.extIv = none → B) (hh : s.ctx.hdrlen = none → B)
  (hi : s.ctx.iv = none → B) (key : s.ctx.key.isSome = true) (hk : s.ctx.key.bind (s.ks[·]?) = none → B)
  (hf : ¬ FrameReady s.frm → B)
include at_ hx hh hi key hk hf

theorem opDecWep_ends (suite : s.ctx.suite = some .wep) : PassEnds opDecWep s B := by
  have hn : s.frm = none → B := fun h => hf (by simp [h])
  refine ends_bind <| ends_readCtx hx fun _ _ => ends_bind <| ends_require .of_ctx_frm fun _ => ?_
  refine ends_bind_of (readHdrlen_ends hh) ?_
  rintro h _ rfl
  refine ends_bind <| ends_frmLen hn fun f _ => ends_bind <| ends_require .of_ctx_frm fun _ => ?_
  refine ends_bind <| ends_readCtx hi fun iv _ => ends_bind <| ends_theKey hk fun _ k _ _ => ?_
  refine ends_bind <| ends_memRead hf .of_ctx_frm fun _ _ _ => ?_
  refine ends_bind <| ends_memWrite hf .of_ctx_frm fun _ _ frame => ?_
  refine ends_bind <| ends_writeCtx <| ends_require .of_ctx_frm fun ok => ?_
  rw [ok]
  exact .decipher at_ key suite (by simp) frame

theorem opDecTkip_ends (hta : s.ctx.ta = none → B) (suite : s.ctx.suite = some .tkip) : PassEnds opDecTkip s B := by
  have hn : s.frm = none → B := fun h => hf (by simp [h])
  refine ends_bind <| ends_readCtx hx fun _ _ => ends_bind <| ends_require .of_ctx_frm fun _ => ?_
  refine ends_bind_of (readHdrlen_ends hh) ?_
  rintro h _ rfl
  refine ends_bind <| ends_frmLen hn fun f _ => ends_bind <| ends_require .of_ctx_frm fun _ => ?_
  refine ends_bind <| ends_memRead hf .of_ctx_frm fun _ _ _ => ?_
  refine ends_bind <| ends_readCtx hi fun iv _ => ends_bind <| ends_writeCtx <| ends_bind <| ends_theKey hk fun _ k _ _ => ?_
  refine ends_bind <| ends_readCtx hta fun _ _ => ends_bind <| ends_memRead hf .of_ctx_frm fun _ _ _ => ?_
  refine ends_bind <| ends_memWrite hf .of_ctx_frm fun _ _ frame => ?_
  refine ends_bind <| ends_require .of_ctx_frm fun _ => ?_
  refine ends_bind <| ends_memRead (fun h => hf fun r => h (frame r)) .of_ctx_frm fun _ _ _ => ?_
  refine ends_bind <| ends_require .of_ctx_frm fun _ => ends_writeCtx ?_
  exact .decipher at_ key suite (fun _ => ⟨rfl, rfl⟩) frame

theorem opDecCcmp_ends (suite : s.ctx.suite = some .ccmp) : PassEnds opDecCcmp s B := by
  have hn : s.frm = none → B := fun h => hf (by simp [h])
  refine ends_bind <| ends_readCtx hx fun _ _ => ends_bind <| ends_require .of_ctx_frm fun _ => ?_
  refine ends_bind_of (readHdrlen_ends hh) ?_
  rintro h _ rfl
  refine ends_bind <| ends_frmLen hn fun f _ => ends_bind <| ends_require .of_ctx_frm fun _ => ?_
  refine ends_bind <| ends_memRead hf .of_ctx_frm fun _ _ _ => ?_
  refine ends_bind <| ends_readCtx hi fun iv _ => ends_bind <| ends_writeCtx ?_
  refine ends_bind <| ends_memRead hf .of_ctx_frm fun _ _ _ => ends_bind <| ends_memRead hf .of_ctx_frm fun _ _ _ => ?_
  refine ends_bind <| ends_theKey hk fun _ k _ _ => ends_bind <| ends_writeCtx ?_
  refine ends_bind <| ends_require .of_ctx_frm fun ok => ?_
  rw [ok]
  refine ends_memWrite hf .of_ctx_frm fun _ _ frame => ?_
  exact .decipher at_ key suite (fun _ => ⟨rfl, rfl⟩) frame

end Ciphers

theorem opDecNone_ends : PassEnds opDecNone s B := ends_raise .of_ctx_frm

theorem opStrip_ends (at_ : Filtered s) (tag : s.ctx.tag = some .data) (ok : s.ctx.decryptOk.isSome = true)
    (hsu : s.ctx.suite = none → B) (hf : s.frm = none → B) : PassEnds opStrip s B := by
  refine ends_bind <| ends_readCtx hsu fun su _ => ends_bind <| ends_truncateTail hf .of_ctx_frm fun f h => ?_
  refine ends_bind <| ends_writeCtx <| ends_setStage <| .strip at_ tag ok fun r => ⟨rfl, wf_truncate ?_⟩
  exact h ▸ r.2

/-! ### The fragment hand-off and the replay checker -/

theorem opDefrag_ends (at_ : Filtered s ∨ s.stage = .decrypted) (tag : s.ctx.tag = some .data)
    (hm : s.ctx.isMcast = none → B) (hf : s.frm = none → B) : PassEnds opDefrag s B := by
  refine ends_bind <| ends_readCtx hm fun _ _ => ends_bind <| ends_require .of_ctx_frm fun _ => ?_
  refine ends_bind <| ends_theFrame hf fun f _ => ends_bind <| ends_submitFrame fun a env => ?_
  cases a with
  | complete b =>
    exact ends_bind <| ends_replaceFrame hf fun f _ => ends_setStage <| .defrag at_ tag ⟨rfl, wf_replace f b⟩
  | incomplete =>
    exact ends_bind <| ends_emit <| ends_raise ⟨rfl, rfl, rfl, rfl, rfl, [.replenish], rfl, by simp [Event.ends]⟩

/-- RPLCHK needs the registers it reads, a key record, and under a refusal a suite that has a replay reason (R251, R255). -/
theorem opRplchk_ends (at_ : s.stage = .decrypted ∨ s.stage = .defragmented)
    (hsu : s.ctx.suite = some .tkip ∨ s.ctx.suite = some .ccmp) (hhi : s.ctx.tscHi = none → B) (hlo : s.ctx.tscLo = none → B)
    (hkey : s.ctx.key = none → B) (hk : s.ctx.key.bind (s.ks[·]?) = none → B) : PassEnds opRplchk s B := by
  refine ends_bind <| ends_readCtx hhi fun hi _ => ends_bind <| ends_readCtx hlo fun lo _ => ?_
  refine ends_bind <| ends_readCtx hkey fun h hh => ends_bind <| ends_keyAt (fun e => hk (by simp [hh, e])) fun k record => ?_
  split
  · next accepted =>
    refine ends_bind <| ends_updateReplay <| ends_setStage ?_
    rw [modify_eq_set record]
    exact .rplchk at_ record accepted
  · refine ends_bind <| ends_readCtx (fun e => by simp [e] at hsu) fun su hs => ?_
    refine ends_bind <| ends_demand (fun e => ?_) fun r _ => ends_raise .of_ctx_frm
    obtain hsu | hsu := hsu <;> rw [hs] at hsu <;> cases hsu <;> cases e

/-! ### The header translator -/

section Pieces
variable {E : State → Prop}

theorem runXltAddr_ends {r : XltAddrRow} (hf : ¬ FrameReady s.frm → B) (e : E s) :
    (runXltAddr r).Ends s (fun _ t => ∃ da sa, t = { s with ctx := { s.ctx with da := some da, sa := some sa } }) E B := by
  have pair : ∀ o o' : Nat, (setAddresses o o').Ends s
      (fun _ t => ∃ da sa, t = { s with ctx := { s.ctx with da := some da, sa := some sa } }) E B := by
    intro o o'
    refine ends_bind_of (readAddr_ends hf e) ?_
    rintro da _ rfl
    refine ends_bind_of (readAddr_ends hf e) ?_
    rintro sa _ rfl
    exact ends_writeCtx ⟨da, sa, rfl⟩
  cases r
  · exact pair _ _
  · exact pair _ _
  · exact pair _ _
  · exact pair _ _

theorem readIvLen_ends {fc : BitVec 16} {h : Nat} (hf : ¬ FrameReady s.frm → B) (e : E s) :
    (readIvLen fc h).Ends s (fun _ t => t = s) E B := by
  unfold readIvLen
  split
  · exact ends_bind <| ends_memRead hf e fun _ _ _ => ends_pure rfl
  · exact ends_pure rfl

/-- An action that writes nothing but the frame, and keeps it ready. -/
abbrev FrameOnly (s t : State) : Prop := ∃ x, t = { s with frm := x } ∧ (FrameReady s.frm → FrameReady x)

theorem writeEthernet_ends {nh : Nat} (hf : ¬ FrameReady s.frm → B) (hda : s.ctx.da = none → B) (hsa : s.ctx.sa = none → B)
    (e : ∀ x, E { s with frm := x }) : (writeEthernet nh).Ends s (fun _ t => FrameOnly s t) E B := by
  refine ends_bind <| ends_readCtx hda fun da _ => ends_bind <| ends_readCtx hsa fun sa _ => ?_
  refine ends_bind <| ends_memWrite hf (e _) fun f _ ready => ?_
  refine ends_bind <| ends_memWrite (fun h => hf fun r => h (ready r)) (e _) fun f' _ ready' => ?_
  refine ends_advanceHead nofun (e _) fun f'' _ ready'' => ?_
  exact ⟨_, rfl, fun r => ready'' (ready' (ready r))⟩

theorem lengthFraming_ends {p : Nat} (hf : ¬ FrameReady s.frm → B) (hda : s.ctx.da = none → B) (hsa : s.ctx.sa = none → B)
    (e : ∀ x, E { s with frm := x }) : (lengthFraming p).Ends s (fun _ t => FrameOnly s t) E B := by
  refine ends_bind <| ends_frmLen (fun h => hf (by simp [h])) fun f _ => ?_
  refine ends_bind <| ends_memWrite hf (e _) fun f _ ready => ?_
  refine ends_mono (writeEthernet_ends (fun h => hf fun r => h (ready r)) hda hsa fun x => e x) ?_
  rintro _ _ ⟨x, rfl, ready'⟩
  exact ⟨x, rfl, fun r => ready' (ready r)⟩

theorem runSnap_ends {r : SnapRow} {p : Nat} (hf : ¬ FrameReady s.frm → B) (hda : s.ctx.da = none → B)
    (hsa : s.ctx.sa = none → B) (e : ∀ x, E { s with frm := x }) : (runSnap r p).Ends s (fun _ t => FrameOnly s t) E B := by
  cases r
  · exact lengthFraming_ends hf hda hsa e
  · exact writeEthernet_ends hf hda hsa e
  · exact lengthFraming_ends hf hda hsa e

end Pieces

theorem opHdrxlt_ends (at_ : Filtered s ∨ s.stage = .decrypted ∨ s.stage = .defragmented ∨ s.stage = .replayChecked)
    (tag : s.ctx.tag = some .data) (hf : ¬ FrameReady s.frm → B) : PassEnds opHdrxlt s B := by
  refine ends_bind <| ends_frmLen (fun h => hf (by simp [h])) fun f _ => ?_
  refine ends_bind_of (readFc_ends hf .of_ctx_frm) ?_
  rintro fc _ rfl
  refine ends_bind <| ends_require .of_ctx_frm fun _ => ends_bind_of (runXltAddr_ends hf .of_ctx_frm) ?_
  rintro _ _ ⟨da, sa, rfl⟩
  refine ends_bind_of (readIvLen_ends hf .of_ctx_frm) ?_
  rintro ivLen _ rfl
  refine ends_bind <| ends_require .of_ctx_frm fun _ => ends_bind <| ends_memRead hf .of_ctx_frm fun _ _ _ => ?_
  refine ends_bind <| ends_look <| ends_bind_of (runSnap_ends hf nofun nofun fun _ => .of_ctx_frm) ?_
  rintro _ _ ⟨x, rfl, ready⟩
  exact ends_setStage <| .hdrxlt at_ tag da sa ready

/-! ### ROUTE -/

/-- The destination that the row UCQ or UCRELAY has is the associated entry that the route decision saw (R180, R182). -/
theorem associatedPs_some {st : List StaEntry} {a : Addr} {b : Bool} (h : associatedPs st a = some b) :
    ∃ i e, stLookup st a = some i ∧ st[i]? = some e ∧ e.valid = true ∧ e.assoc = .associated ∧ e.ps = b := by
  unfold associatedPs at h
  split at h
  · cases h
  · next i hi =>
    obtain ⟨-, e, he, hv, -⟩ := stLookup_some hi
    rw [he] at h
    dsimp only at h
    split at h
    · next ha => exact ⟨i, e, hi, he, hv, ha, Option.some.inj h⟩
    · cases h

/-- The row that the route decision selects has a destination where it needs one. -/
theorem rteRow_dest {n : Nat} {g ps : Bool} {d : Option Bool} (h : rteRow n g ps d = .ucq ∨ rteRow n g ps d = .ucrelay) :
    ∃ b, d = some b := by
  unfold rteRow at h
  cases d with
  | some b => exact ⟨b, rfl⟩
  | none =>
    exfalso
    split at h
    · simp at h
    · split at h
      · split at h <;> simp at h
      · simp at h

theorem opRoute_ends (at_ : s.stage = .headerTranslated) (ap : s.cfg.apMode = true) (first : s.ctx.route = none)
    (hda : s.ctx.da = none → B) (hf : s.frm = none → B) (h0 : s.st[0]? = none → B) : PassEnds opRoute s B := by
  refine ends_bind <| ends_readCtx hda fun da hd => ends_bind <| ends_look ?_
  have dest : ∀ {d : Option Bool} {b : Bool}, associatedPs s.st da = d → d = some b →
      ∃ i e, stLookup s.st da = some i ∧ s.st[i]? = some e ∧ e.valid = true := by
    rintro d b hd rfl
    obtain ⟨i, e, h1, h2, h3, -⟩ := associatedPs_some hd
    exact ⟨i, e, h1, h2, h3⟩
  cases hr : rteRow (countAssoc s.st) (groupAddressed da) (anyPs s.st) (associatedPs s.st da) with
  | nosta =>
    unfold runRoute opRouteNosta setRoute
    exact ends_writeCtx <| .route at_ ap first .refl (.inl rfl)
  | flood =>
    unfold runRoute opRouteFlood setRoute
    exact ends_writeCtx <| .route at_ ap first .refl (.inl rfl)
  | toStack =>
    unfold runRoute opRouteLocal setRoute
    exact ends_writeCtx <| .route at_ ap first .refl (.inl rfl)
  | mcq =>
    refine ends_bind <| ends_theFrame hf fun f _ => ends_bind ?_
    refine ends_bind <| ends_staAt h0 fun e he => ends_bind <| ends_look ?_
    split
    · next room =>
      refine ends_modifySta h0 fun e' he' => ends_writeCtx ?_
      rw [he] at he'
      cases he'
      exact .route at_ ap first (.push he (.inl rfl) room f.packet) (.inl rfl)
    · exact ends_count <| ends_writeCtx <| .cloneRefused at_ ap first
  | ucrelay =>
    obtain ⟨b, hb⟩ := rteRow_dest (.inr hr)
    obtain ⟨i, e, hi, -⟩ := dest rfl hb
    refine ends_bind <| ends_bind <| ends_readCtx hda fun a ha => ends_bind <| ends_look ?_
    obtain rfl : da = a := by simpa [hd] using ha
    exact ends_demand (by simp [hi]) fun j _ => ends_writeCtx <| .route at_ ap first .refl (.inl rfl)
  | ucq =>
    obtain ⟨b, hb⟩ := rteRow_dest (.inl hr)
    obtain ⟨i, e, hi, he, hv⟩ := dest rfl hb
    refine ends_bind <| ends_bind <| ends_readCtx hda fun a ha => ends_bind <| ends_look ?_
    obtain rfl : da = a := by simpa [hd] using ha
    refine ends_demand (by simp [hi]) fun j hj => ends_bind ?_
    obtain rfl : i = j := by simpa [hi] using hj
    refine ends_bind <| ends_staAt (by simp [he]) fun e' he' => ends_bind <| ends_look ?_
    obtain rfl : e = e' := by simpa [he] using he'
    refine ends_bind <| ends_require .of_ctx_frm fun room => ends_bind <| ends_theFrame hf fun f _ => ?_
    refine ends_bind <| ends_modifySta (by simp [he]) fun e' he' => ends_setFrame <| ends_writeCtx ?_
    obtain rfl : e = e' := by simpa [he] using he'
    exact .route at_ ap first (.push he (.inr hv) (by simpa using room) f.packet) (.inr ⟨rfl, i, rfl⟩)

/-! ### The terminal operations -/

theorem opMgmtDispatch_ends (hf : s.frm = none → B) : PassEnds opMgmtDispatch s B :=
  ends_bind <| ends_theFrame hf fun _ _ => ends_bind <| ends_emit <| ends_bind <| ends_setFrame <|
  ends_bind <| ends_setStage <| ends_unlock <| .delivered rfl

/-- DELIVER needs the route and the frame, unless ROUTE has moved it (R324). -/
theorem opDeliver_ends (hr : s.cfg.apMode = true → s.ctx.route = none → B)
    (hb : s.cfg.apMode = true → s.ctx.toStack = none → B)
    (hf : (s.cfg.apMode = true → ∀ i, s.ctx.route ≠ some (.queuedSta i)) → s.frm = none → B) : PassEnds opDeliver s B := by
  have finale : ∀ {c : Ctx} {e : Event}, e.ends = true →
      (do emit e; endDelivered : Act Unit).Ends { s with ctx := c } (fun _ t => PassStep s t) (Raised s) B := fun he =>
    ends_bind <| ends_emit <| ends_bind <| ends_setFrame <| ends_bind <| ends_setStage <| ends_unlock <| .delivered he
  refine ends_bind <| ends_look <| ends_bind ?_
  cases ap : s.cfg.apMode with
  | false =>
    simp only [stationRoute, Bool.false_eq_true, if_false]
    refine ends_writeCtx ?_
    refine ends_bind <| ends_readCtx nofun fun r h => ends_bind <| ends_readCtx nofun fun b _ => ends_bind ?_
    cases h
    exact ends_bind <| ends_theFrame (hf (by simp [ap])) fun _ _ => finale rfl
  | true =>
    refine ends_pure <| ends_bind <| ends_readCtx (hr ap) fun r h => ends_bind <| ends_readCtx (hb ap) fun b _ => ends_bind ?_
    have frame : (∀ i, r ≠ .queuedSta i) → s.frm = none → B := fun hne => hf fun _ i hi => hne i (by simpa [h] using hi)
    cases r with
    | queuedSta i => exact finale rfl
    | toStack => exact ends_bind <| ends_theFrame (frame nofun) fun _ _ => finale rfl
    | relayFlood => exact ends_bind <| ends_theFrame (frame nofun) fun _ _ => finale rfl
    | relayUcast i => exact ends_bind <| ends_theFrame (frame nofun) fun _ _ => finale rfl
    | queuedMcast => exact ends_bind <| ends_theFrame (frame nofun) fun _ _ => finale rfl

end Operations

end Sys2Proof.Machine
end

section
/-! SUPPORT. The sequencer (R312): which operation each line issues, what the pass may rely on there under the invariant, and so
how every step of the pipeline ends. -/
namespace Sys2Proof.Machine

/-! ### What the pass may rely on (R24, R25) -/

/-- Past CLASSIFY and before ROUTE. -/
abbrev Working (s : State) : Prop :=
  s.stage = .classified ∨ s.stage = .apFiltered ∨ s.stage = .decrypted ∨ s.stage = .defragmented ∨ s.stage = .replayChecked

/-- What the invariant says of the frame and the context while the pass is working. -/
structure PassFacts (s : State) : Prop where
  frame : FrameReady s.frm
  classified : ctxClassified s
  chained : ctxChained s
  unrouted : s.ctx.route = none
  dataTag : s.stage ≠ .classified → s.stage ≠ .apFiltered → s.ctx.tag = some .data

theorem ctxReady_of_inv {s : State} (i : Inv s) : ctxReady s := by
  obtain ⟨-, -, -, -, -, -, -, ready⟩ := i
  exact ready

theorem passFacts_of_inv {s : State} (i : Inv s) (h : Working s) : PassFacts s := by
  have form : Memory.wf s.frm = true := i.1
  have ready := ctxReady_of_inv i
  rcases h with h | h | h | h | h <;> simp only [ctxReady, h] at ready
  case inl =>
    obtain ⟨c, k, r⟩ := ready
    exact ⟨⟨c.1, form⟩, c, k, r, fun hn => absurd h hn⟩
  case inr.inl =>
    obtain ⟨c, k, r⟩ := ready
    exact ⟨⟨c.1, form⟩, c, k, r, fun _ hn => absurd h hn⟩
  all_goals
    obtain ⟨c, k, r, tag⟩ := ready
    exact ⟨⟨c.1, form⟩, c, k, r, fun _ _ => tag⟩

theorem working_of_filtered {s : State} (h : Filtered s) : Working s := by
  obtain ⟨h, -⟩ | h := h
  · exact .inl h
  · exact .inr (.inl h)

theorem working_of_defrag {s : State} (h : Filtered s ∨ s.stage = .decrypted) : Working s :=
  h.elim working_of_filtered fun h => .inr (.inr (.inl h))

theorem working_of_replay {s : State} (h : s.stage = .decrypted ∨ s.stage = .defragmented) : Working s :=
  .inr (.inr (h.imp_right .inl))

theorem working_of_translate {s : State}
    (h : Filtered s ∨ s.stage = .decrypted ∨ s.stage = .defragmented ∨ s.stage = .replayChecked) : Working s :=
  h.elim working_of_filtered fun h => .inr (.inr h)

namespace PassFacts
variable {s : State} (p : PassFacts s)
include p

theorem fc : s.ctx.fc.isSome = true := by
  obtain ⟨-, h, -⟩ := p.classified
  exact h

theorem tag : s.ctx.tag.isSome = true := by
  obtain ⟨-, -, h, -⟩ := p.classified
  exact h

theorem isWep : s.ctx.isWep.isSome = true := by
  obtain ⟨-, -, -, h, -⟩ := p.classified
  exact h

theorem isFrag : s.ctx.isFrag.isSome = true := by
  obtain ⟨-, -, -, -, h, -⟩ := p.classified
  exact h

theorem isMcast : s.ctx.isMcast.isSome = true := by
  obtain ⟨-, -, -, -, -, h, -⟩ := p.classified
  exact h

theorem isPspoll : s.ctx.isPspoll.isSome = true := by
  obtain ⟨-, -, -, -, -, -, h, -⟩ := p.classified
  exact h

theorem hdrlen : s.ctx.hdrlen.isSome = true := by
  obtain ⟨-, -, -, -, -, -, -, h, -⟩ := p.classified
  exact h

theorem ta (tag : s.ctx.tag = some .data) : s.ctx.ta.isSome = true := by
  obtain ⟨-, -, -, -, -, -, -, -, h⟩ := p.classified
  exact h tag

/-- CTX.KIDX and CTX.EXTIV are written with CTX.IV (R203). -/
theorem ivRegisters (iv : s.ctx.iv.isSome = true) : s.ctx.kidx.isSome = true ∧ s.ctx.extIv.isSome = true := by
  obtain ⟨h, -⟩ := p.chained
  exact h iv

/-- CTX.KEY names a record, and CTX.USEPW is written with it (R24, R36). -/
theorem keyRegisters (key : s.ctx.key.isSome = true) :
    (s.ctx.key.bind (s.ks[·]?)).isSome = true ∧ s.ctx.usePw.isSome = true := by
  obtain ⟨-, h, -⟩ := p.chained
  obtain ⟨k, hk⟩ := Option.isSome_iff_exists.1 key
  obtain ⟨bound, usePw⟩ := h k hk
  exact ⟨by simpa [hk] using bound, usePw⟩

/-- After DECRYPT the key, its suite and, where the replay check is due, the sequence value are there (R251). -/
theorem decrypted (dec : s.ctx.dec = true) : s.ctx.key.isSome = true ∧ s.ctx.suite.isSome = true
    ∧ (s.ctx.suite = some .tkip ∨ s.ctx.suite = some .ccmp → s.ctx.tscLo.isSome = true ∧ s.ctx.tscHi.isSome = true) := by
  obtain ⟨-, -, h, -⟩ := p.chained
  exact h (.inl dec)

end PassFacts

/-! ### What the sequencer issues -/

/-- What the sequencer does is sound: it waits only between passes, it is stuck only where `B` holds, and an operation it issues
is decoded and ends as `PassStep` and `Raised` say. -/
def Issue.Sound (x : Issue) (s : State) (B : Prop) : Prop :=
  match x with
  | .wait => s.stage.quiet = true
  | .stuck _ => B
  | .code c => ∃ i m, decode c = .ok i ∧ exec i s = finish m s ∧ PassEnds m s B

/-- Where the invariant would have the register written, its absence is excused by `B`. -/
theorem of_absent {P B : Prop} {γ : Type} {o : Option γ} (hb : ¬ P → B) (h : P → o.isSome = true) (e : o = none) : B :=
  hb fun p => by
    have := h p
    simp [e] at this

/-- Line 7 reads CTX.SUITE where it may hold no value (R25, R251). -/
theorem replayDue_none_iff {c : Ctx} : replayDue c = none ↔ c.dec = true ∧ c.suite = none := by
  unfold replayDue
  split <;> simp [*]

/-- The replay check is due after DECRYPT under TKIP and CCMP (R251). -/
theorem replayDue_true_iff {c : Ctx} :
    replayDue c = some true ↔ c.dec = true ∧ (c.suite = some .tkip ∨ c.suite = some .ccmp) := by
  unfold replayDue
  split
  · next h =>
    rw [h]
    cases c.suite with
    | none => simp
    | some su => cases su <;> decide
  · simp [*]

section Lines
variable {s : State} {B : Prop} (hb : ¬ Inv s → B)
include hb

/-- The frame is ready while the pass is working. -/
theorem of_frame_not_ready (h : Working s) (hf : ¬ FrameReady s.frm) : B := hb fun i => hf (passFacts_of_inv i h).frame

theorem of_no_frame (h : Working s) : s.frm = none → B := of_absent hb fun i => (passFacts_of_inv i h).frame.1

/-- Line 8 (R312). -/
theorem issueTranslate_sound (at_ : Filtered s ∨ s.stage = .decrypted ∨ s.stage = .defragmented ∨ s.stage = .replayChecked)
    (tag : s.stage = .classified ∨ s.stage = .apFiltered → s.ctx.tag = some .data) :
    (issueTranslate s.ctx).Sound s B := by
  have working : Working s := working_of_translate at_
  have data : Inv s → s.ctx.tag = some .data := fun i => by
    by_cases h : s.stage = .classified ∨ s.stage = .apFiltered
    · exact tag h
    · rw [not_or] at h
      exact (passFacts_of_inv i working).dataTag h.1 h.2
  unfold issueTranslate
  cases h : s.ctx.tag with
  | none => exact of_absent hb (fun i => (passFacts_of_inv i working).tag) h
  | some t =>
    cases t with
    | data => exact ⟨.hdrxlt, opHdrxlt, rfl, rfl, opHdrxlt_ends at_ h (of_frame_not_ready hb working)⟩
    | mgmt => exact hb fun i => nomatch h.symm.trans (data i)
    | ctrl => exact hb fun i => nomatch h.symm.trans (data i)

/-- Lines 7 and 8 (R251, R312). -/
theorem issueReplay_sound (at_ : s.stage = .decrypted ∨ s.stage = .defragmented) : (issueReplay s.ctx).Sound s B := by
  have working : Working s := working_of_replay at_
  have facts : Inv s → PassFacts s := fun i => passFacts_of_inv i working
  unfold issueReplay
  split
  · next h =>
    obtain ⟨dec, suite⟩ := replayDue_none_iff.1 h
    refine of_absent hb (fun i => ?_) suite
    obtain ⟨-, h, -⟩ := (facts i).decrypted dec
    exact h
  · next h =>
    obtain ⟨dec, suite⟩ := replayDue_true_iff.1 h
    have key : Inv s → s.ctx.key.isSome = true := fun i => ((facts i).decrypted dec).1
    have tsc : Inv s → s.ctx.tscLo.isSome = true ∧ s.ctx.tscHi.isSome = true := fun i => by
      obtain ⟨-, -, h⟩ := (facts i).decrypted dec
      exact h suite
    refine ⟨.rplchk, opRplchk, rfl, rfl, opRplchk_ends at_ suite ?_ ?_ (of_absent hb key) ?_⟩
    · exact of_absent hb fun i => (tsc i).2
    · exact of_absent hb fun i => (tsc i).1
    · exact of_absent hb fun i => ((facts i).keyRegisters (key i)).1
  · refine issueTranslate_sound hb (.inr (at_.elim .inl fun h => .inr (.inl h))) fun h => ?_
    obtain h' | h' := at_ <;> simp [h'] at h

/-- Line 6 and what follows it (R312). -/
theorem issueDefrag_sound (at_ : Filtered s ∨ s.stage = .decrypted) (tag : s.ctx.tag = some .data) {otherwise : Issue}
    (h : otherwise.Sound s B) : (issueDefrag s.ctx otherwise).Sound s B := by
  have working : Working s := working_of_defrag at_
  unfold issueDefrag
  cases e : s.ctx.isFrag with
  | none => exact of_absent hb (fun i => (passFacts_of_inv i working).isFrag) e
  | some f =>
    cases f with
    | true =>
      refine ⟨.defrag, opDefrag, rfl, rfl, opDefrag_ends at_ tag ?_ (of_no_frame hb working)⟩
      exact of_absent hb fun i => (passFacts_of_inv i working).isMcast
    | false => exact h

/-- Line 5: the five operations of DECRYPT in their order (R120, R312). -/
theorem issueDecrypt_sound (at_ : Filtered s) (tag : s.ctx.tag = some .data) : (issueDecrypt s.ctx).Sound s B := by
  have working : Working s := working_of_filtered at_
  have facts : Inv s → PassFacts s := fun i => passFacts_of_inv i working
  have frame := of_frame_not_ready hb working
  have hdrlen : s.ctx.hdrlen = none → B := of_absent hb fun i => (facts i).hdrlen
  have ta : s.ctx.ta = none → B := of_absent hb fun i => (facts i).ta tag
  cases hiv : s.ctx.iv with
  | none =>
    simp only [issueDecrypt, hiv]
    exact ⟨.ivparse, opIvparse, rfl, rfl, opIvparse_ends at_ hdrlen frame⟩
  | some iv =>
    have ivSome : s.ctx.iv.isSome = true := by simp [hiv]
    cases hkey : s.ctx.key with
    | none =>
      simp only [issueDecrypt, hiv, hkey]
      refine ⟨.keysel, opKeysel, rfl, rfl, opKeysel_ends at_ ?_ ta ?_⟩
      · exact of_absent hb fun i => (facts i).isMcast
      · exact of_absent hb fun i => ((facts i).ivRegisters ivSome).1
    | some k =>
      have keySome : s.ctx.key.isSome = true := by simp [hkey]
      have record := of_absent hb fun i => ((facts i).keyRegisters keySome).1
      cases hsu : s.ctx.suite with
      | none =>
        simp only [issueDecrypt, hiv, hkey, hsu]
        refine ⟨.cipherchk, opCipherchk, rfl, rfl, ?_⟩
        exact opCipherchk_ends at_ hsu record (of_absent hb fun i => ((facts i).keyRegisters keySome).2)
      | some su =>
        cases hok : s.ctx.decryptOk with
        | none =>
          simp only [issueDecrypt, hiv, hkey, hsu, hok]
          have extIv : s.ctx.extIv = none → B := of_absent hb fun i => ((facts i).ivRegisters ivSome).2
          have iv : s.ctx.iv = none → B := by simp [hiv]
          cases su with
          | noSuite => exact ⟨.decNone, opDecNone, rfl, rfl, opDecNone_ends⟩
          | wep => exact ⟨.decWep, opDecWep, rfl, rfl, opDecWep_ends at_ extIv hdrlen iv keySome record frame hsu⟩
          | tkip => exact ⟨.decTkip, opDecTkip, rfl, rfl, opDecTkip_ends at_ extIv hdrlen iv keySome record frame ta hsu⟩
          | ccmp => exact ⟨.decCcmp, opDecCcmp, rfl, rfl, opDecCcmp_ends at_ extIv hdrlen iv keySome record frame hsu⟩
        | some ok =>
          simp only [issueDecrypt, hiv, hkey, hsu, hok]
          exact ⟨.strip, opStrip, rfl, rfl, opStrip_ends at_ tag (by simp [hok]) (by simp [hsu]) (of_no_frame hb working)⟩

/-- Lines 4 to 8 (R312). -/
theorem issueAfterFilter_sound (at_ : Filtered s) : (issueAfterFilter s.ctx).Sound s B := by
  have working : Working s := working_of_filtered at_
  have dispatch : (Issue.code (.seq .mgmtDispatch)).Sound s B :=
    ⟨.mgmtDispatch, opMgmtDispatch, rfl, rfl, opMgmtDispatch_ends (of_no_frame hb working)⟩
  unfold issueAfterFilter
  cases h : s.ctx.tag with
  | none => exact of_absent hb (fun i => (passFacts_of_inv i working).tag) h
  | some t =>
    cases t with
    | mgmt => exact dispatch
    | ctrl => exact dispatch
    | data =>
      dsimp only
      unfold issueData
      cases hw : s.ctx.isWep with
      | none => exact of_absent hb (fun i => (passFacts_of_inv i working).isWep) hw
      | some w =>
        cases w with
        | true => exact issueDecrypt_sound hb at_ h
        | false => exact issueDefrag_sound hb (.inl at_) h (issueTranslate_sound hb (.inl at_) fun _ => h)

/-- Lines 3 to 8 (R312). -/
theorem issueClassified_sound (at_ : s.stage = .classified) : (issueClassified s.cfg.apMode s.ctx).Sound s B := by
  have working : Working s := .inl at_
  have filter : (Issue.code (.seq .apctl)).Sound s B := by
    refine ⟨.apctl, opApctl, rfl, rfl, opApctl_ends at_ ?_ ?_⟩
    · exact of_absent hb fun i => (passFacts_of_inv i working).isPspoll
    · exact of_absent hb fun i => (passFacts_of_inv i working).fc
  unfold issueClassified
  cases h : s.ctx.tag with
  | none => exact of_absent hb (fun i => (passFacts_of_inv i working).tag) h
  | some t =>
    cases ap : s.cfg.apMode with
    | false => cases t <;> exact issueAfterFilter_sound hb (.inl ⟨at_, .inl ap⟩)
    | true =>
      cases t with
      | mgmt => exact issueAfterFilter_sound hb (.inl ⟨at_, .inr h⟩)
      | ctrl => exact filter
      | data => exact filter

/-- Lines 6, 7 and 8 after DECRYPT (R312). -/
theorem issueDecrypted_sound (at_ : s.stage = .decrypted) : (issueDecrypted s.ctx).Sound s B := by
  have replay := issueReplay_sound hb (.inl at_)
  unfold issueDecrypted
  cases h : s.ctx.tag with
  | none => exact of_absent hb (fun i => (passFacts_of_inv i (working_of_replay (.inl at_))).tag) h
  | some t =>
    cases t with
    | mgmt => exact replay
    | ctrl => exact replay
    | data => exact issueDefrag_sound hb (.inr at_) h replay

/-- Line 9 (R312). -/
theorem issueDelivery_sound (at_ : s.stage = .headerTranslated) : (issueDelivery s.cfg.apMode s.ctx).Sound s B := by
  have facts : Inv s → s.ctx.da.isSome = true ∧ ctxChained s ∧ (movedToQueue s = true ∨ s.frm.isSome = true)
      ∧ (s.ctx.route.isSome = true → s.cfg.apMode = true) := fun i => by
    simpa only [ctxReady, at_] using ctxReady_of_inv i
  have frame : (∀ i, s.ctx.route ≠ some (.queuedSta i)) → s.frm = none → B := fun hr hf => hb fun i => by
    have moved : movedToQueue s = false := by
      unfold movedToQueue
      split
      · next i h => exact absurd h (hr i)
      all_goals rfl
    obtain ⟨-, -, there, -⟩ := facts i
    simp [moved, hf] at there
  unfold issueDelivery
  split
  · next h =>
    simp only [Bool.and_eq_true, Option.isNone_iff_eq_none] at h
    refine ⟨.route, opRoute, rfl, rfl, opRoute_ends at_ h.1 h.2 ?_ (frame (by simp [h.2])) ?_⟩
    · exact of_absent hb fun i => (facts i).1
    · refine of_absent hb fun i => ?_
      obtain ⟨-, -, virtual, -⟩ := i
      obtain ⟨e, he, -⟩ := virtualStation_iff.1 virtual
      simp [he]
  · next h =>
    have route : s.cfg.apMode = true → s.ctx.route.isSome = true := by
      simpa [Option.isSome_iff_ne_none] using h
    refine ⟨.deliver, opDeliver, rfl, rfl, opDeliver_ends (fun ap e => ?_) (fun ap => ?_) fun hr => ?_⟩
    · simp [e] at route
      simp [ap] at route
    · refine of_absent hb fun i => ?_
      obtain ⟨-, ⟨-, -, -, routeChain⟩, -⟩ := facts i
      exact routeChain (route ap)
    · cases ap : s.cfg.apMode with
      | true => exact frame (hr ap)
      | false =>
        refine fun hf => hb fun i => ?_
        obtain ⟨-, -, moved, unrouted⟩ := facts i
        have : s.ctx.route = none := by simpa [ap] using unrouted
        simp [movedToQueue, this, hf] at moved

/-- The successor function is sound (R312). -/
theorem issue_sound : (issue s).Sound s B := by
  unfold issue
  cases h : s.stage with
  | idle => simp [Issue.Sound, h, Stage.quiet]
  | delivered => simp [Issue.Sound, h, Stage.quiet]
  | dropped => simp [Issue.Sound, h, Stage.quiet]
  | raw =>
    have facts : Inv s → s.frm.isSome = true ∧ s.ctx.wlen.isSome = true := fun i => by
      have ready := ctxReady_of_inv i
      simp only [ctxReady, h] at ready
      obtain ⟨frm, -, wlen⟩ := ready
      exact ⟨frm, wlen⟩
    refine ⟨.lenchk, opLenchk, rfl, rfl, opLenchk_ends h ?_ ?_⟩
    · exact of_absent hb fun i => (facts i).2
    · exact of_absent hb fun i => (facts i).1
  | lengthValidated =>
    refine ⟨.classify, opClassify, rfl, rfl, opClassify_ends h fun hf => hb fun i => hf ?_⟩
    have ready := ctxReady_of_inv i
    simp only [ctxReady, h] at ready
    exact ⟨ready.1, i.1⟩
  | classified => exact issueClassified_sound hb h
  | apFiltered => exact issueAfterFilter_sound hb (.inr h)
  | decrypted => exact issueDecrypted_sound hb h
  | defragmented => exact issueReplay_sound hb (.inr h)
  | replayChecked => exact issueTranslate_sound hb (.inr (.inr (.inr h))) (by simp [h])
  | headerTranslated => exact issueDelivery_sound hb h

end Lines

/-! ### A move of the pipeline -/

/-- Between passes the block waits (R411). -/
theorem pipeMove_of_quiet {s : State} (h : s.stage.quiet = true) : pipeMove s = .next s := by
  have : issue s = .wait := by
    unfold issue
    cases e : s.stage
    case idle | delivered | dropped => rfl
    all_goals simp [e, Stage.quiet] at h
  simp [pipeMove, this]

/-- What a move of the pipeline can do: wait between passes, complete an operation, or drop the frame. -/
theorem pipeMove_next {s t : State} (h : pipeMove s = .next t) :
    (s.stage.quiet = true ∧ t = s) ∨ PassStep s t ∨ ∃ r u, Raised s u ∧ t = dropPath r u := by
  have sound := issue_sound (s := s) (B := True) fun _ => trivial
  unfold pipeMove at h
  split at h
  · next e =>
    rw [e] at sound
    cases h
    exact .inl ⟨sound, rfl⟩
  · cases h
  · next c e =>
    rw [e] at sound
    obtain ⟨i, m, hd, hx, hm⟩ := sound
    simp only [hd, hx] at h
    exact .inr (finish_cases_of_ends hm h)

/-- Under the invariant the pipeline always moves (R25, R387). -/
theorem pipeMove_not_stuck {s : State} (i : Inv s) : ∃ t, pipeMove s = .next t := by
  have sound := issue_sound (s := s) (B := False) fun h => h i
  unfold pipeMove
  split
  · exact ⟨s, rfl⟩
  · next e =>
    rw [e] at sound
    exact sound.elim
  · next c e =>
    rw [e] at sound
    obtain ⟨i, m, hd, hx, hm⟩ := sound
    simp only [hd, hx]
    exact finish_next_of_ends hm

end Sys2Proof.Machine
end

section
/-! PROOFS. The effects of a pass, from every state: OUT, the counters, the key store, and what no frame can change
(R38, R330, R371, R388); and the successor function line by line (R312). -/
namespace Sys2Proof.Machine

variable {s t u : State}

/-! ### What an operation of a pass that completes does -/

/-- An operation goes on and emits nothing that ends a pass, or ends the pass with one event (R330). -/
theorem PassStep.out (h : PassStep s t) (active : s.stage.quiet = false) :
    (t.stage.quiet = false ∧ ∃ es, t.out = s.out ++ es ∧ ∀ e ∈ es, e.ends = false)
      ∨ (t.stage.quiet = true ∧ ∃ e, t.out = s.out ++ [e] ∧ e.ends = true) := by
  cases h
  case apctl events => exact .inl ⟨rfl, _, rfl, events⟩
  case delivered ends => exact .inr ⟨rfl, _, rfl, ends⟩
  case ivparse | keysel | cipherchk | decipher | route | cloneRefused => exact .inl ⟨active, [], by simp, by simp⟩
  case lenchk | classify | strip | defrag | rplchk | hdrxlt => exact .inl ⟨rfl, [], by simp, by simp⟩

/-- An operation that completes counts nothing, but for the refused clone (R184). -/
theorem PassStep.stat (h : PassStep s t) :
    t.stat = s.stat
      ∨ (t.stat = s.stat.bump .psqOverflow ∧ s.stage = .headerTranslated ∧ t.ctx.route = some .queuedMcast) := by
  cases h
  case cloneRefused at_ _ _ => exact .inr ⟨rfl, at_, rfl⟩
  all_goals exact .inl rfl

/-- No operation that completes leaves the pass dropped (R385). -/
theorem PassStep.not_dropped (h : PassStep s t) (active : s.stage.quiet = false) : t.stage ≠ .dropped := by
  intro hd
  have stays : s.stage ≠ .dropped := fun h => by simp [h, Stage.quiet] at active
  cases h
  case ivparse | keysel | cipherchk | decipher | route | cloneRefused => exact stays hd
  case lenchk | classify | apctl | strip | defrag | rplchk | hdrxlt | delivered => cases hd

/-- The key store is written by the replay check alone, at one record, with an accepted value (R38, R254). -/
theorem PassStep.ks (h : PassStep s t) :
    t.ks = s.ks ∨ ∃ i k lo hi, s.ks[i]? = some k ∧ tscAccepted hi k.tscHi lo k.tscLo = true
      ∧ t.ks = s.ks.set i { k with tscLo := lo, tscHi := hi } := by
  cases h
  case rplchk i k lo hi at_ record accepted => exact .inr ⟨i, k, lo, hi, record, accepted, rfl⟩
  all_goals exact .inl rfl

/-- The configuration and the parameters are kept (R388). -/
theorem PassStep.cfg (h : PassStep s t) : t.cfg = s.cfg := by cases h <;> rfl

theorem PassStep.par (h : PassStep s t) : t.par = s.par := by cases h <;> rfl

/-- The stations keep their identity and their queues the bound (R44, R388). -/
theorem PassStep.st (h : PassStep s t) : StationsStep s.par.psqCap s.st t.st := by
  cases h
  case apctl stations _ => exact stations
  case route stations _ => exact stations
  all_goals exact .refl

/-- A field of the key records that the sequence value plays no part in is kept (R38). -/
theorem PassStep.ks_map {γ : Type} (h : PassStep s t) (f : KeyRec → γ)
    (hf : ∀ k lo hi, f { k with tscLo := lo, tscHi := hi } = f k) : t.ks.map f = s.ks.map f := by
  obtain e | ⟨i, k, lo, hi, hk, -, e⟩ := h.ks
  · rw [e]
  · rw [e]
    exact map_set_of_eq hk f (hf k lo hi)

/-- An accepted value is a greater one, or the wrap exception's (R252, R253). -/
theorem tscAccepted_iff {nh oh : BitVec 32} {nl ol : BitVec 16} :
    tscAccepted nh oh nl ol = true ↔ tsc48 oh ol < tsc48 nh nl ∨ (oh = 0xFFFFFFFF ∧ nh = 0) := by
  have hn := nl.isLt
  have ho := ol.isLt
  have greater : tscGreater nh oh nl ol = true ↔ tsc48 oh ol < tsc48 nh nl := by
    unfold tscGreater tsc48
    simp only [Bool.or_eq_true, Bool.and_eq_true, decide_eq_true_eq, beq_iff_eq, BitVec.lt_def, ← BitVec.toNat_inj]
    omega
  have wrap : tscWrap nh oh = true ↔ oh = 0xFFFFFFFF ∧ nh = 0 := by
    unfold tscWrap
    rw [Bool.and_eq_true, beq_iff_eq, beq_iff_eq, and_comm]
  rw [tscAccepted, Bool.or_eq_true, greater, wrap]

/-- Every record stays or advances (R258). -/
theorem PassStep.advances (h : PassStep s t) :
    t.ks.length = s.ks.length
      ∧ ∀ (i : Nat) (before now : KeyRec), s.ks[i]? = some before → t.ks[i]? = some now → now.advancedFrom before := by
  obtain e | ⟨i, k, lo, hi, hk, acc, e⟩ := h.ks
  · rw [e]
    exact ⟨rfl, fun j a b ha hb => .inl (Option.some.inj (hb.symm.trans ha))⟩
  · rw [e]
    refine ⟨List.length_set, fun j a b ha hb => ?_⟩
    rw [List.getElem?_set] at hb
    split at hb
    · next hj =>
      subst hj
      rw [hk] at ha
      cases ha
      rw [if_pos (List.getElem?_eq_some_iff.1 hk).1] at hb
      cases hb
      exact .inr ⟨tscAccepted_iff.1 acc, rfl⟩
    · exact .inl (Option.some.inj (hb.symm.trans ha))

/-! ### Moves of the pipeline -/

/-- With no host move due, a step is the pipeline's, the schedule's yield taken away (log 7). -/
theorem step_of_hostSilent (h : hostSilent s = true) : step s = pipeMove s ∨ step s = pipeMove s.popMove := by
  unfold hostSilent at h
  unfold step
  split
  · next e => simp [e] at h
  · next e => simp [e] at h
  · exact .inr rfl
  · exact .inl rfl

/-- A property of moves that the schedule plays no part in is shown of the pipeline's move. -/
theorem of_step_silent {P : State → State → Prop} (silent : hostSilent s = true) (h : step s = .next t)
    (pop : ∀ {t}, P s.popMove t → P s t) (move : ∀ {s}, pipeMove s = .next t → P s t) : P s t := by
  obtain e | e := step_of_hostSilent silent
  · exact move (e ▸ h)
  · exact pop (move (e ▸ h))

/-- How OUT grows in one step of a pass (R330). -/
def OneOutcome (s t : State) : Prop :=
  ∃ es, t.out = s.out ++ es
    ∧ (t.stage.quiet = false → ∀ e ∈ es, e.ends = false)
    ∧ (t.stage.quiet = true → ∃ pre e, es = pre ++ [e] ∧ e.ends = true ∧ ∀ x ∈ pre, x.ends = false)

theorem pipeMove_oneOutcome (h : pipeMove s = .next t) (active : s.stage.quiet = false) : OneOutcome s t := by
  obtain ⟨hq, -⟩ | pass | ⟨r, u, raised, rfl⟩ := pipeMove_next h
  · rw [hq] at active
    cases active
  · obtain ⟨hq, es, ho, he⟩ | ⟨hq, e, ho, he⟩ := pass.out active
    · exact ⟨es, ho, fun _ => he, fun h => by simp [hq] at h⟩
    · exact ⟨[e], ho, fun h => by simp [hq] at h, fun _ => ⟨[], e, rfl, he, by simp⟩⟩
  · obtain ⟨es, ho, he⟩ := raised.out
    refine ⟨es ++ [.drop (reasonCode r)], by simp [ho], nofun, fun _ => ⟨es, _, rfl, rfl, he⟩⟩

/-- What a step of a pass counts (R33, R371). -/
def OneCounter (s t : State) : Prop :=
  (t.stage = .dropped →
    ∃ r, t.ctx.reason = some (reasonCode r) ∧ t.out.getLast? = some (.drop (reasonCode r))
      ∧ (∀ c, reasonCounter r = some c → t.stat = s.stat.bump c)
      ∧ (reasonCounter r = none → r = .reassemblyIncomplete ∧ t.stat = s.stat))
    ∧ (t.stage ≠ .dropped →
      t.stat = s.stat ∨ (t.stat = s.stat.bump .psqOverflow ∧ s.stage = .headerTranslated ∧ t.ctx.route = some .queuedMcast))

theorem reasonCounter_eq_none {r : Reason} (h : reasonCounter r = none) : r = .reassemblyIncomplete := by
  cases r
  case reassemblyIncomplete => rfl
  all_goals cases h

theorem pipeMove_oneCounter (h : pipeMove s = .next t) (active : s.stage.quiet = false) : OneCounter s t := by
  obtain ⟨hq, -⟩ | pass | ⟨r, u, raised, rfl⟩ := pipeMove_next h
  · rw [hq] at active
    cases active
  · exact ⟨fun hd => absurd hd (pass.not_dropped active), fun _ => pass.stat⟩
  · refine ⟨fun _ => ⟨r, rfl, by simp, fun c hc => ?_, fun hn => ⟨reasonCounter_eq_none hn, ?_⟩⟩, fun hn => absurd rfl hn⟩
    · simp [hc, raised.stat]
    · simp [hn, raised.stat]

end Sys2Proof.Machine

namespace Sys2Proof.Proofs
open Sys2Proof.Machine

/-- Settles O14: a completing operation emits an ending event only where it ends the pass, and the drop path adds one. -/
theorem onePassOneOutcome : Obligations.OnePassOneOutcome := by
  intro s t silent active h
  exact of_step_silent (P := fun s t => s.stage.quiet = false → OneOutcome s t) silent h (fun h => h)
    pipeMove_oneOutcome active

/-- Settles O15: only the drop path and the refused clone count. -/
theorem oneCounterPerDrop : Obligations.OneCounterPerDrop := by
  intro s t silent active h
  exact of_step_silent (P := fun s t => s.stage.quiet = false → OneCounter s t) silent h (fun h => h)
    pipeMove_oneCounter active

/-- Settles O16: RPLCHK's sequence value and the stations' flags and queues are all that a pass writes of the tables. -/
theorem pipelineWritesOnlyItsOwn : Obligations.PipelineWritesOnlyItsOwn := by
  intro s t silent h
  refine of_step_silent (P := fun s t => t.cfg = s.cfg ∧ t.par = s.par
    ∧ t.ks.map (fun k => (k.valid, k.scope, k.addr, k.kidx, k.suite, k.material))
      = s.ks.map (fun k => (k.valid, k.scope, k.addr, k.kidx, k.suite, k.material))
    ∧ t.st.map StaEntry.identity = s.st.map StaEntry.identity) silent h (fun h => h) ?_
  intro s h
  obtain ⟨-, rfl⟩ | pass | ⟨r, u, raised, rfl⟩ := pipeMove_next h
  · exact ⟨rfl, rfl, rfl, rfl⟩
  · exact ⟨pass.cfg, pass.par, pass.ks_map _ fun _ _ _ => rfl, pass.st.identities⟩
  · exact ⟨raised.cfg, raised.par, by rw [dropPath_ks, raised.ks], by rw [dropPath_st, raised.st]⟩

/-- Settles O17: the one write to the key store is of a value that the replay check accepted. -/
theorem replayMonotone : Obligations.ReplayMonotone := by
  intro s t silent h
  refine of_step_silent (P := fun s t => t.ks.length = s.ks.length
    ∧ ∀ (i : Nat) (before now : KeyRec), s.ks[i]? = some before → t.ks[i]? = some now → now.advancedFrom before)
    silent h (fun h => h) ?_
  intro s h
  have same : ∀ {t : State}, t.ks = s.ks → t.ks.length = s.ks.length
      ∧ ∀ (i : Nat) (before now : KeyRec), s.ks[i]? = some before → t.ks[i]? = some now → now.advancedFrom before :=
    fun e => ⟨by rw [e], fun i a b ha hb => .inl (Option.some.inj ((e ▸ hb).symm.trans ha))⟩
  obtain ⟨-, rfl⟩ | pass | ⟨r, u, raised, rfl⟩ := pipeMove_next h
  · exact same rfl
  · exact pass.advances
  · exact same raised.ks

end Sys2Proof.Proofs

namespace Sys2Proof.Machine

/-! ### The successor function, line by line (R312) -/

variable {s : State}

/-- With an empty schedule a step runs the operation that the sequencer issues. -/
theorem step_of_issue {c : Code} {i : Instr} (port : s.env.port = []) (h : issue s = .code c) (hd : decode c = .ok i) :
    step s = exec i s := by
  simp [step, port, pipeMove, h, hd]

/-- Past the filter a frame that is no data frame leaves, a data frame goes on to line 5. -/
theorem issue_of_filtered (h : Filtered s) : issue s = issueAfterFilter s.ctx := by
  obtain ⟨at_, hap | htag⟩ | at_ := h
  · cases htag : s.ctx.tag with
    | none => simp [issue, at_, issueClassified, issueAfterFilter, htag]
    | some t => cases t <;> simp [issue, at_, issueClassified, issueAfterFilter, htag, hap]
  · simp [issue, at_, issueClassified, htag]
  · simp [issue, at_]

theorem issueAfterFilter_of_not_data {c : Ctx} (h : c.tag = some .mgmt ∨ c.tag = some .ctrl) :
    issueAfterFilter c = .code (.seq .mgmtDispatch) := by
  obtain h | h := h <;> simp [issueAfterFilter, h]

theorem issueAfterFilter_of_protected {c : Ctx} (tag : c.tag = some .data) (wep : c.isWep = some true) :
    issueAfterFilter c = issueDecrypt c := by
  simp [issueAfterFilter, issueData, tag, wep]

theorem issueAfterFilter_of_plain {c : Ctx} (tag : c.tag = some .data) (wep : c.isWep = some false) :
    issueAfterFilter c = issueDefrag c (issueTranslate c) := by
  simp [issueAfterFilter, issueData, tag, wep]

theorem issueDefrag_of_fragment {c : Ctx} {x : Issue} (h : c.isFrag = some true) : issueDefrag c x = .code (.seq .defrag) := by
  simp [issueDefrag, h]

theorem issueDefrag_of_whole {c : Ctx} {x : Issue} (h : c.isFrag = some false) : issueDefrag c x = x := by
  simp [issueDefrag, h]

theorem issueTranslate_of_data {c : Ctx} (h : c.tag = some .data) : issueTranslate c = .code (.seq .hdrxlt) := by
  simp [issueTranslate, h]

/-- After DECRYPT a whole data frame, and after DEFRAG any, goes to line 7. -/
theorem issue_of_replay_line (h : (s.stage = .decrypted ∧ s.ctx.isFrag = some false) ∨ s.stage = .defragmented)
    (tag : s.ctx.tag = some .data) : issue s = issueReplay s.ctx := by
  obtain ⟨at_, whole⟩ | at_ := h
  · simp [issue, at_, issueDecrypted, tag, issueDefrag_of_whole whole]
  · simp [issue, at_]

/-- The check is not due where no DECRYPT ran, or under no suite or WEP (R251). -/
theorem replayDue_false {c : Ctx} (h : c.dec = false ∨ c.suite = some .noSuite ∨ c.suite = some .wep) :
    replayDue c = some false := by
  unfold replayDue
  split
  · next hd =>
    rw [hd] at h
    obtain h | h | h := h
    · cases h
    · rw [h]
      rfl
    · rw [h]
      rfl
  · rfl

section Decrypt
variable {c : Ctx}

theorem issueDecrypt_ivparse (iv : c.iv = none) : issueDecrypt c = .code (.seq .ivparse) := by
  simp only [issueDecrypt, iv]

theorem issueDecrypt_keysel (iv : c.iv ≠ none) (key : c.key = none) : issueDecrypt c = .code (.seq .keysel) := by
  obtain ⟨_, hiv⟩ := Option.ne_none_iff_exists'.1 iv
  simp only [issueDecrypt, hiv, key]

theorem issueDecrypt_cipherchk (iv : c.iv ≠ none) (key : c.key ≠ none) (su : c.suite = none) :
    issueDecrypt c = .code (.seq .cipherchk) := by
  obtain ⟨_, hiv⟩ := Option.ne_none_iff_exists'.1 iv
  obtain ⟨_, hkey⟩ := Option.ne_none_iff_exists'.1 key
  simp only [issueDecrypt, hiv, hkey, su]

theorem issueDecrypt_suite {u : Suite} (iv : c.iv ≠ none) (key : c.key ≠ none) (ok : c.decryptOk = none)
    (su : c.suite = some u) : issueDecrypt c = .code (.suite2 u.code) := by
  obtain ⟨_, hiv⟩ := Option.ne_none_iff_exists'.1 iv
  obtain ⟨_, hkey⟩ := Option.ne_none_iff_exists'.1 key
  simp only [issueDecrypt, hiv, hkey, su, ok]

theorem issueDecrypt_strip (iv : c.iv ≠ none) (key : c.key ≠ none) (su : c.suite ≠ none) (ok : c.decryptOk ≠ none) :
    issueDecrypt c = .code (.seq .strip) := by
  obtain ⟨_, hiv⟩ := Option.ne_none_iff_exists'.1 iv
  obtain ⟨_, hkey⟩ := Option.ne_none_iff_exists'.1 key
  obtain ⟨_, hsu⟩ := Option.ne_none_iff_exists'.1 su
  obtain ⟨_, hok⟩ := Option.ne_none_iff_exists'.1 ok
  simp only [issueDecrypt, hiv, hkey, hsu, hok]

end Decrypt

/-- DECRYPT's operations in their order (R120, log 12). -/
theorem step_decrypt {c : Code} {i : Instr} (port : s.env.port = []) (h : Filtered s) (tag : s.ctx.tag = some .data)
    (wep : s.ctx.isWep = some true) (hc : issueDecrypt s.ctx = .code c) (hd : decode c = .ok i) : step s = exec i s :=
  step_of_issue port (by rw [issue_of_filtered h, issueAfterFilter_of_protected tag wep, hc]) hd

end Sys2Proof.Machine

namespace Sys2Proof.Proofs
open Sys2Proof.Machine

/-- Settles O7, line by line: what the sequencer issues in the line's states, decoded. -/
theorem sequencerTable : Obligations.SequencerTable := by
  intro s port filtered due notDue
  refine ⟨fun at_ => ?_, fun at_ => ?_, fun at_ ap tag => ?_, fun h tag => ?_, fun h tag wep => ⟨fun iv => ?_, fun iv key => ?_,
    fun iv key su => ?_, fun iv key ok => ⟨fun su => ?_, fun su => ?_, fun su => ?_, fun su => ?_⟩, fun iv key su ok => ?_⟩,
    fun h tag frag => ?_, fun h tag hdue => ?_, fun h tag dec su => ?_, fun h tag => ?_, fun at_ ap route => ?_,
    fun at_ h => ?_⟩
  · exact step_of_issue port (c := .seq .lenchk) (by simp only [issue, at_]) rfl
  · exact step_of_issue port (c := .seq .classify) (by simp only [issue, at_]) rfl
  · refine step_of_issue port (c := .seq .apctl) ?_ rfl
    obtain tag | tag := tag <;> simp [issue, at_, issueClassified, tag, ap]
  · exact step_of_issue port (by rw [issue_of_filtered h, issueAfterFilter_of_not_data tag]) rfl
  · exact step_decrypt port h tag wep (issueDecrypt_ivparse iv) rfl
  · exact step_decrypt port h tag wep (issueDecrypt_keysel iv key) rfl
  · exact step_decrypt port h tag wep (issueDecrypt_cipherchk iv key su) rfl
  · exact step_decrypt port h tag wep (issueDecrypt_suite iv key ok su) rfl
  · exact step_decrypt port h tag wep (issueDecrypt_suite iv key ok su) rfl
  · exact step_decrypt port h tag wep (issueDecrypt_suite iv key ok su) rfl
  · exact step_decrypt port h tag wep (issueDecrypt_suite iv key ok su) rfl
  · exact step_decrypt port h tag wep (issueDecrypt_strip iv key su ok) rfl
  · refine step_of_issue port ?_ (rfl : decode (.seq .defrag) = .ok .defrag)
    obtain ⟨h, wep⟩ | at_ := h
    · rw [issue_of_filtered h, issueAfterFilter_of_plain tag wep, issueDefrag_of_fragment frag]
    · simp [issue, at_, issueDecrypted, tag, issueDefrag_of_fragment frag]
  · refine step_of_issue port (c := .seq .rplchk) ?_ rfl
    rw [issue_of_replay_line h tag, issueReplay, replayDue_true_iff.2 hdue]
  · have hr : issue s = .stuck (.ctxUnwritten .suite) := by
      rw [issue_of_replay_line h tag, issueReplay, replayDue_none_iff.2 ⟨dec, su⟩]
    simp [step, port, pipeMove, hr]
  · refine step_of_issue port ?_ (rfl : decode (.seq .hdrxlt) = .ok .hdrxlt)
    obtain ⟨h, wep, frag⟩ | ⟨h, hn⟩ | at_ := h
    · rw [issue_of_filtered h, issueAfterFilter_of_plain tag wep, issueDefrag_of_whole frag, issueTranslate_of_data tag]
    · rw [issue_of_replay_line h tag, issueReplay, replayDue_false hn]
      exact issueTranslate_of_data tag
    · simp [issue, at_, issueTranslate_of_data tag]
  · exact step_of_issue port (c := .seq .route) (by simp [issue, at_, issueDelivery, ap, route]) rfl
  · refine step_of_issue port (c := .seq .deliver) ?_ rfl
    have : (s.cfg.apMode && s.ctx.route.isNone) = false := by
      obtain h | h := h
      · simp [h]
      · simp [Option.isNone_eq_false_iff, Option.isSome_iff_ne_none, h]
    simp [issue, at_, issueDelivery, this]

end Sys2Proof.Proofs
end

section
/-! SUPPORT. What a move of the host can do, said once (R340 to R354): `HostStep` has one constructor per kind of effect, and every
transaction and every reading of a key record is one of them and a reply. -/
namespace Sys2Proof.Machine

/-! ### The tables under the host's operations -/

/-- The parts of the invariant that speak of the station table (R42, R43, R44). -/
abbrev StationsOk (cap : Nat) (st : List StaEntry) : Prop := virtualStation st ∧ stationsUnique st ∧ queuesBounded cap st

/-- The parts of the invariant that speak of the key store (R34, R37). -/
abbrev KeysOk (ks : List KeyRec) : Prop := keysUnique ks ∧ keyLengths ks

theorem StationsStep.ok {cap : Nat} {st st' : List StaEntry} (h : StationsStep cap st st') (ok : StationsOk cap st) :
    StationsOk cap st' := by
  obtain ⟨virtual, unique, bounded⟩ := ok
  exact ⟨virtualStation_of_identities h.identities virtual, stationsUnique_of_identities h.identities unique,
    h.bounded virtual bounded⟩

/-- A written entry other than entry 0 keeps the table in form when its address is no other's and its queue is in bounds. -/
theorem stationsOk_set {cap i : Nat} {st : List StaEntry} {x : StaEntry} (ok : StationsOk cap st) (hi : 1 ≤ i)
    (other : ∀ (j : Nat) (y : StaEntry), j ≠ i → st[j]? = some y → ¬ (x.valid = true ∧ y.valid = true ∧ x.addr = y.addr))
    (queue : x.q.length ≤ cap ∧ (x.valid = false → x.q = [])) : StationsOk cap (st.set i x) := by
  obtain ⟨virtual, unique, bounded⟩ := ok
  refine ⟨?_, pairwise_set (fun a b hab ⟨hb, ha, e⟩ => hab ⟨ha, hb, e.symm⟩) unique other, queuesBounded_set bounded queue⟩
  rw [virtualStation_iff] at virtual ⊢
  rwa [List.getElem?_set_ne (by omega)]

/-- No other valid entry has the address (R347). -/
theorem addrTaken_false {st : List StaEntry} {i : Nat} {a : Addr} (h : addrTaken st i a = false) {j : Nat} {y : StaEntry}
    (hj : j ≠ i) (hy : st[j]? = some y) : ¬ (y.valid = true ∧ y.addr = a) := by
  unfold addrTaken at h
  rw [List.any_eq_false] at h
  have := h (y, j) (List.mem_zipIdx_iff_getElem?.2 hy)
  simpa [hj] using this

/-- The entry that H.STA_SET leaves is valid, of the given address, its queue kept or empty (R347). -/
theorem staWritten_some {e x : StaEntry} {a : Addr} {v : Assoc} (h : staWritten e a v = some x) :
    x.valid = true ∧ x.addr = a ∧ (x.q = e.q ∨ x.q = []) := by
  unfold staWritten at h
  split at h
  · next hv =>
    simp only [Bool.and_eq_true, beq_iff_eq] at hv
    cases h
    exact ⟨hv.1, hv.2, .inl rfl⟩
  · split at h
    · cases h
      exact ⟨rfl, rfl, .inr rfl⟩
    · cases h

theorem staRecorded_ok {cap i v : Nat} {st st' : List StaEntry} {a : Addr} (h : staRecorded st i a v = some st')
    (ok : StationsOk cap st) : StationsOk cap st' := by
  unfold staRecorded at h
  split at h
  · next e x he _ =>
    split at h
    · next pre =>
      simp only [Bool.and_eq_true, decide_eq_true_eq, Bool.not_eq_true'] at pre
      obtain ⟨⟨hi, free⟩, -⟩ := pre
      obtain ⟨e', hw, rfl⟩ := Option.map_eq_some_iff.1 h
      obtain ⟨hv, ha, hq⟩ := staWritten_some hw
      refine stationsOk_set ok hi (fun j y hj hy ⟨_, hyv, e⟩ => addrTaken_false free hj hy ⟨hyv, ?_⟩) ⟨?_, by simp [hv]⟩
      · rw [← e, ha]
      · obtain hq | hq := hq
        · rw [hq]
          obtain ⟨-, -, bounded⟩ := ok
          exact (bounded e (List.mem_of_getElem? he)).1
        · simp [hq]
    · cases h
  · cases h

/-- A record that is the same key as a valid one answers its lookup. -/
theorem answers_of_sameKey {k y : KeyRec} (hy : y.valid = true) (h : sameKey k y = true) :
    y.answers k.scope k.addr k.kidx = true := by
  obtain ⟨hs, ha, hk⟩ := sameKey_iff.1 h
  exact (answers_iff _ _ _ _).2 ⟨hy, hs.symm, ha.symm, fun hg => (hk hg).symm⟩

/-- H.KEY_SET's place keeps the keys unique (R37, R344). -/
theorem keyStored_ok {ks ks' : List KeyRec} {k : KeyRec} (h : keyStored ks k = some ks') (ok : KeysOk ks)
    (len : 1 ≤ k.material.length ∧ k.material.length ≤ Config.maxKeyLen) : KeysOk ks' := by
  obtain ⟨unique, lengths⟩ := ok
  obtain ⟨i, hi, rfl⟩ := Option.map_eq_some_iff.1 h
  refine ⟨keysUnique_set unique fun j y hj hy ⟨hk, hyv, hs⟩ => ?_, keyLengths_set lengths fun _ => len⟩
  have hy' := answers_of_sameKey hyv hs
  unfold keySlot at hi
  split at hi
  · next x e =>
    cases hi
    obtain ⟨z, hz, hza, -⟩ := ksLookup_some e
    exact hj (eq_of_sameKey unique hy hz hyv ((answers_iff _ _ _ _).1 hza).1 (sameKey_of_answers hy' hza))
  · next e =>
    rw [ksLookup_none.1 e y (List.mem_of_getElem? hy)] at hy'
    cases hy'

/-- H.KEY_SET's record has material of 1 to MAX_KEY_LEN bytes (R344). -/
theorem keyOfOperands_some {sc ki su lo hi : Nat} {a : Addr} {m : List Byte} {k : KeyRec}
    (h : keyOfOperands sc a ki su m lo hi = some k) : 1 ≤ k.material.length ∧ k.material.length ≤ Config.maxKeyLen := by
  unfold keyOfOperands at h
  split at h
  · split at h
    · next pre =>
      simp only [keyOperandsOk, Bool.and_eq_true, decide_eq_true_eq] at pre
      obtain ⟨⟨⟨⟨-, low⟩, high⟩, -⟩, -⟩ := pre
      cases h
      exact ⟨low, high⟩
    · cases h
  · cases h

/-- Making a record invalid keeps the store in form (R345). -/
theorem keysOk_invalidate {ks : List KeyRec} {i : Nat} (ok : KeysOk ks) :
    KeysOk (ks.modify i fun k => { k with valid := false }) := by
  cases e : ks[i]? with
  | none => rwa [List.modify_eq_self (List.getElem?_eq_none_iff.1 e)]
  | some k =>
    rw [modify_eq_set e]
    exact ⟨keysUnique_set ok.1 fun _ _ _ _ h => (by cases h.1), keyLengths_set ok.2 nofun⟩

theorem stationsOk_reset (cap n : Nat) : StationsOk cap (resetStations n) := by
  have invalid : ∀ {x}, x ∈ List.replicate (n - 1) StaEntry.invalid → x = StaEntry.invalid := fun h => (List.mem_replicate.1 h).2
  refine ⟨rfl, List.pairwise_cons.2 ⟨fun x hx h => ?_, ?_⟩, fun x hx => ?_⟩
  · obtain ⟨-, hv, -⟩ := h
    rw [invalid hx] at hv
    cases hv
  · exact List.pairwise_replicate.2 (.inr fun h => nomatch h.1)
  · obtain rfl | hx := List.mem_cons.1 hx
    · exact ⟨Nat.zero_le _, fun _ => rfl⟩
    · rw [invalid hx]
      exact ⟨Nat.zero_le _, fun _ => rfl⟩

theorem keysOk_reset (n : Nat) : KeysOk (List.replicate n KeyRec.invalid) := by
  refine ⟨List.pairwise_replicate.2 (.inr fun h => nomatch h.1), fun k hk hv => ?_⟩
  rw [(List.mem_replicate.1 hk).2] at hv
  cases hv

/-! ### A move of the host -/

/-- What a move of the host does, but for its reply. -/
inductive HostStep (s : State) : State → Prop where
  /-- a refusal, a reading, or an operation without effect (R340, R345, R346, R352) -/
  | same : HostStep s s
  /-- H.FRAME_IN, accepted (R310) -/
  | accept (free : s.lock = false) (b : List Byte) (n : Nat) (m : Meta) : HostStep s (acceptFrame b n m s)
  /-- H.CFG_WRITE (R342) -/
  | config (free : s.lock = false) (c : Cfg) : HostStep s { s with cfg := c }
  /-- H.KEY_SET, H.KEY_DEL (R344, R345) -/
  | keys {ks : List KeyRec} (free : s.lock = false) (ok : KeysOk s.ks → KeysOk ks) : HostStep s { s with ks := ks }
  /-- H.STA_SET, H.STA_DEL, H.PS_POP, H.STA0_PS_CLEAR (R347, R348, R350, R351) -/
  | stations {st : List StaEntry} (free : s.lock = false)
      (ok : StationsOk s.par.psqCap s.st → StationsOk s.par.psqCap st) : HostStep s { s with st := st }
  /-- H.RESET (R354) -/
  | reset : HostStep s (State.resetWith s.ks.length s.st.length s.par s.env)

/-- The outcome of a host operation: a next state, always. -/
abbrev HostMoves (s : State) (o : Host.Outcome State Fault Refusal) : Prop :=
  ∃ u r, HostStep s u ∧ o = .next (u.withReply r)

section Operations
variable {s : State}

theorem hostOp_moves {f : State → State} (h : s.lock = false → ∃ u r, HostStep s u ∧ f s = u.withReply r) :
    HostMoves s (hostOp f s) := by
  cases hl : s.lock with
  | true => exact ⟨s, .refused, .same, hostOp_locked hl⟩
  | false =>
    obtain ⟨u, r, hu, e⟩ := h hl
    exact ⟨u, r, hu, by rw [hostOp_free hl, e]⟩

theorem execHFrameIn_moves (b : List Byte) (n : Nat) (m : Meta) : HostMoves s (execHFrameIn b n m s) :=
  hostOp_moves fun free => by
    unfold hostFrameIn
    split
    · exact ⟨_, _, .accept free b n m, rfl⟩
    · exact ⟨_, _, .same, rfl⟩

theorem execHCfgWrite_moves (reg v : Nat) : HostMoves s (execHCfgWrite reg v s) :=
  hostOp_moves fun free => by
    unfold hostCfgWrite
    split
    · exact ⟨_, _, .config free _, rfl⟩
    · exact ⟨_, _, .same, rfl⟩

theorem execHKeySet_moves (sc : Nat) (a : Addr) (ki su : Nat) (m : List Byte) (lo hi : Nat) :
    HostMoves s (execHKeySet sc a ki su m lo hi s) :=
  hostOp_moves fun free => by
    unfold hostKeySet
    split
    · next ks e =>
      obtain ⟨k, hk, hs⟩ := Option.bind_eq_some_iff.1 e
      exact ⟨_, _, .keys free fun ok => keyStored_ok hs ok (keyOfOperands_some hk), rfl⟩
    · exact ⟨_, _, .same, rfl⟩

theorem execHKeyDel_moves (sc : Nat) (a : Addr) (ki : Nat) : HostMoves s (execHKeyDel sc a ki s) :=
  hostOp_moves fun free => by
    unfold hostKeyDel
    split
    · exact ⟨_, _, .keys free keysOk_invalidate, rfl⟩
    · exact ⟨_, _, .same, rfl⟩

theorem execHStaSet_moves (i : Nat) (a : Addr) (v : Nat) : HostMoves s (execHStaSet i a v s) :=
  hostOp_moves fun free => by
    unfold hostStaSet
    split
    · next e => exact ⟨_, _, .stations free (staRecorded_ok e), rfl⟩
    · exact ⟨_, _, .same, rfl⟩

theorem execHStaDel_moves (i : Nat) : HostMoves s (execHStaDel i s) :=
  hostOp_moves fun free => by
    unfold hostStaDel
    split
    · next e _ =>
      split
      · next hi =>
        refine ⟨_, _, .stations free fun ok => stationsOk_set ok hi (fun _ _ _ _ h => ?_) ?_, rfl⟩
        · cases h.1
        · simp
      · exact ⟨_, _, .same, rfl⟩
    · exact ⟨_, _, .same, rfl⟩

theorem execHPsPop_moves (i : Nat) : HostMoves s (execHPsPop i s) :=
  hostOp_moves fun free => by
    unfold hostPsPop
    split
    · next e he =>
      split
      · next hv =>
        refine ⟨_, _, .stations free ?_, rfl⟩
        refine StationsStep.ok ⟨map_set_of_eq he _ rfl, fun _ h => queuesBounded_set h ⟨?_, by simp [hv]⟩⟩
        have := (h e (List.mem_of_getElem? he)).1
        simp only [List.length_drop]
        omega
      · exact ⟨_, _, .same, rfl⟩
    · exact ⟨_, _, .same, rfl⟩

theorem execHSta0PsClear_moves : HostMoves s (execHSta0PsClear s) :=
  hostOp_moves fun free => by
    refine ⟨_, _, .stations free fun ok => ?_, rfl⟩
    obtain ⟨e, he, -⟩ := virtualStation_iff.1 ok.1
    rw [modify_eq_set he]
    exact (StationsStep.flags (x := { e with ps := false }) he rfl (.inl rfl)).ok ok

theorem execHStatRead_moves (n : Nat) : HostMoves s (execHStatRead n s) :=
  hostOp_moves fun _ => by
    unfold hostStatRead
    split
    · exact ⟨_, _, .same, rfl⟩
    · exact ⟨_, _, .same, rfl⟩

theorem exec_host_moves {i : Instr} (h : isHostOperation i = true) : HostMoves s (exec i s) := by
  cases i
  case hFrameIn b n m => exact execHFrameIn_moves b n m
  case hCfgWrite r v => exact execHCfgWrite_moves r v
  case hKeySet sc a ki su m lo hi => exact execHKeySet_moves sc a ki su m lo hi
  case hKeyDel sc a ki => exact execHKeyDel_moves sc a ki
  case hStaSet i a v => exact execHStaSet_moves i a v
  case hStaDel i => exact execHStaDel_moves i
  case hPsPop i => exact execHPsPop_moves i
  case hSta0PsClear => exact execHSta0PsClear_moves
  case hStatRead n => exact execHStatRead_moves n
  case hReset => exact ⟨_, _, .reset, rfl⟩
  all_goals cases h

/-- The host port carries host operations only (R122). -/
theorem decodeHost_isHostOperation {b : List Byte} {i : Instr} (h : decodeHost b = .ok i) : isHostOperation i = true := by
  unfold decodeHost at h
  split at h
  · cases h
  · repeat' split at h
    all_goals cases h <;> rfl

theorem hostMove_moves (b : List Byte) : HostMoves s (hostMove b s) := by
  unfold hostMove
  split
  · next e => exact exec_host_moves (decodeHost_isHostOperation e)
  · exact ⟨_, _, .same, rfl⟩

theorem keyReadMove_moves (h : Nat) : HostMoves s (keyReadMove h s) := ⟨_, _, .same, keyReadMove_eq h s⟩

/-- A step is a move of the host or of the pipeline, on the state without the schedule's first move. -/
theorem step_cases (s : State) : (∃ x, (x = s ∨ x = s.popMove) ∧ step s = pipeMove x) ∨ HostMoves s.popMove (step s) := by
  unfold step
  split
  · exact .inr (hostMove_moves _)
  · exact .inr (keyReadMove_moves _)
  · exact .inl ⟨_, .inr rfl, rfl⟩
  · exact .inl ⟨_, .inl rfl, rfl⟩

end Operations

end Sys2Proof.Machine
end

section
/-! PROOFS. The invariant: it holds after reset, every step keeps it, and no step of a state that meets it is stuck; and the
transmitter of a filtered frame stays Associated (R25, R45, R52, R165, R387). -/
namespace Sys2Proof.Machine

variable {s t u : State}

/-! ### The invariant between passes -/

/-- Between passes the invariant says that LOCK is free, that FRM holds no frame, and that the tables are in form. -/
theorem inv_quiet_iff (h : s.stage.quiet = true) :
    Inv s ↔ s.lock = false ∧ s.frm = none ∧ StationsOk s.par.psqCap s.st ∧ KeysOk s.ks := by
  have ready : ctxReady s := by
    cases e : s.stage
    case idle | delivered | dropped => simp only [ctxReady, e]
    all_goals simp [e, Stage.quiet] at h
  constructor
  · rintro ⟨-, ⟨lock, frm⟩, virtual, unique, bounded, keys, lengths, -⟩
    exact ⟨by simpa [h] using lock, frm h, ⟨virtual, unique, bounded⟩, keys, lengths⟩
  · rintro ⟨lock, frm, ⟨virtual, unique, bounded⟩, keys, lengths⟩
    exact ⟨by simp [frm], ⟨by simp [lock, h], fun _ => frm⟩, virtual, unique, bounded, keys, lengths, ready⟩

/-! ### A dropped frame -/

/-- The drop path leads to a state between passes, with the tables as they were (R385, R386). -/
theorem Raised.inv (h : Raised s u) (i : Inv s) (r : Reason) : Inv (dropPath r u) := by
  obtain ⟨-, -, virtual, unique, bounded, keys, lengths, -⟩ := i
  refine (inv_quiet_iff rfl).2 ⟨rfl, rfl, ?_, ?_⟩
  · rw [dropPath_par, dropPath_st, h.par, h.st]
    exact ⟨virtual, unique, bounded⟩
  · rw [dropPath_ks, h.ks]
    exact ⟨keys, lengths⟩

/-! ### A completed operation -/

/-- LOCK is held until the pass ends, and the end leaves no frame (R86, R328). -/
theorem PassStep.lockDiscipline (h : PassStep s t) (active : s.stage.quiet = false) (l : lockDiscipline s) :
    lockDiscipline t := by
  have held : s.lock = true := by simpa [active] using l.1
  cases h
  case ivparse | keysel | cipherchk | decipher | route | cloneRefused =>
    exact ⟨l.1, fun q => by simp [active] at q⟩
  case lenchk | classify | apctl | strip | defrag | rplchk | hdrxlt => exact ⟨held, nofun⟩
  case delivered => exact ⟨rfl, fun _ => rfl⟩

/-- The frame memory stays in form (log 10). -/
theorem PassStep.form (h : PassStep s t) (i : Inv s) : Memory.wf t.frm = true := by
  have form : Memory.wf s.frm = true := i.1
  have ready : Working s → FrameReady s.frm := fun w => (passFacts_of_inv i w).frame
  cases h
  case decipher at_ _ _ _ frame => exact (frame (ready (working_of_filtered at_))).2
  case strip at_ _ _ frame => exact (frame (ready (working_of_filtered at_))).2
  case defrag frame => exact frame.2
  case hdrxlt at_ _ _ _ frame =>
    exact (frame (ready (working_of_translate at_))).2
  case route frame =>
    obtain rfl | ⟨rfl, -⟩ := frame
    · exact form
    · rfl
  case delivered => rfl
  case lenchk | classify | apctl | ivparse | keysel | cipherchk | rplchk | cloneRefused => exact form

/-- What is asked of the context while DECRYPT works (R25). -/
theorem ctxReady_of_filtered (at_ : Filtered s) (stage : t.stage = s.stage) (c : ctxClassified t) (k : ctxChained t)
    (r : t.ctx.route = none) : ctxReady t := by
  obtain ⟨h, -⟩ | h := at_
  · simp only [ctxReady, stage, h]
    exact ⟨c, k, r⟩
  · simp only [ctxReady, stage, h]
    exact ⟨c, k, r⟩

/-- Every register that the pass can read from here on has been written (R24, R25). -/
theorem PassStep.ctxReady (h : PassStep s t) (i : Inv s) : ctxReady t := by
  have facts : Filtered s → PassFacts s := fun h => passFacts_of_inv i (working_of_filtered h)
  have ready := ctxReady_of_inv i
  cases h
  case lenchk at_ =>
    simp only [Machine.ctxReady, at_] at ready
    obtain ⟨frm, ctx, -⟩ := ready
    exact ⟨frm, ctx⟩
  case classify at_ hc =>
    simp only [Machine.ctxReady, at_] at ready
    obtain ⟨frm, hctx⟩ := ready
    obtain ⟨fc, tag, w, p, hl, m, f, ta, rfl, hta⟩ := hc
    rw [hctx]
    refine ⟨⟨frm, rfl, rfl, rfl, rfl, rfl, rfl, rfl, fun e => hta (Option.some.inj e)⟩, ?_, rfl⟩
    exact ⟨nofun, nofun, fun h => by simp [Ctx.empty] at h, nofun⟩
  case apctl at_ _ _ _ _ _ _ =>
    have p := passFacts_of_inv i (.inl at_)
    exact ⟨p.classified, p.chained, p.unrouted⟩
  case ivparse at_ iv ki x =>
    have p := facts at_
    obtain ⟨-, keyChain, doneChain, routeChain⟩ := p.chained
    exact ctxReady_of_filtered at_ rfl p.classified ⟨fun _ => ⟨rfl, rfl⟩, keyChain, doneChain, routeChain⟩ p.unrouted
  case keysel k at_ pw record =>
    have p := facts at_
    obtain ⟨ivChain, -, doneChain, routeChain⟩ := p.chained
    refine ctxReady_of_filtered at_ rfl p.classified ⟨ivChain, ?_, fun h => ⟨rfl, (doneChain h).2⟩, routeChain⟩ p.unrouted
    rintro _ ⟨⟩
    exact ⟨record, rfl⟩
  case cipherchk at_ fresh su =>
    have p := facts at_
    obtain ⟨ivChain, keyChain, doneChain, routeChain⟩ := p.chained
    have begun : ¬ (s.ctx.dec = true ∨ s.ctx.decryptOk.isSome = true) := fun h => by
      obtain ⟨-, suite, -⟩ := doneChain h
      simp [fresh] at suite
    exact ctxReady_of_filtered at_ rfl p.classified ⟨ivChain, keyChain, fun h => absurd h begun, routeChain⟩ p.unrouted
  case decipher su lo hi x at_ key suite tsc frame =>
    have p := facts at_
    obtain ⟨ivChain, keyChain, -, routeChain⟩ := p.chained
    refine ctxReady_of_filtered at_ rfl ⟨(frame p.frame).1, p.classified.2⟩ ⟨ivChain, keyChain, fun _ => ?_, routeChain⟩ p.unrouted
    refine ⟨key, by simp [suite], fun h => tsc ?_⟩
    simpa [suite] using h
  case strip x at_ tag ok frame =>
    have p := facts at_
    obtain ⟨ivChain, keyChain, doneChain, routeChain⟩ := p.chained
    exact ⟨⟨(frame p.frame).1, p.classified.2⟩, ⟨ivChain, keyChain, fun _ => doneChain (.inr ok), routeChain⟩, p.unrouted, tag⟩
  case defrag at_ tag frame =>
    have p := passFacts_of_inv i (working_of_defrag at_)
    exact ⟨⟨frame.1, p.classified.2⟩, p.chained, p.unrouted, tag⟩
  case rplchk k r lo hi at_ record accepted =>
    have p := passFacts_of_inv i (working_of_replay at_)
    obtain ⟨ivChain, keyChain, doneChain, routeChain⟩ := p.chained
    have tag : s.ctx.tag = some .data := by
      obtain h | h := at_ <;> exact p.dataTag (by simp [h]) (by simp [h])
    refine ⟨p.classified, ⟨ivChain, fun j hj => ?_, doneChain, routeChain⟩, p.unrouted, tag⟩
    rw [List.length_set]
    exact keyChain j hj
  case hdrxlt x at_ _ da sa frame =>
    have p := passFacts_of_inv i (working_of_translate at_)
    refine ⟨rfl, p.chained, .inr (frame p.frame).1, fun h => ?_⟩
    rw [show Ctx.route _ = s.ctx.route from rfl, p.unrouted] at h
    cases h
  case route r b x st at_ ap first stations frame =>
    simp only [Machine.ctxReady, at_] at ready
    obtain ⟨da, ⟨ivChain, keyChain, doneChain, -⟩, there, -⟩ := ready
    simp only [Machine.ctxReady, at_]
    refine ⟨da, ⟨ivChain, keyChain, doneChain, fun _ => rfl⟩, ?_, fun _ => ap⟩
    obtain rfl | ⟨rfl, j, rfl⟩ := frame
    · exact .inr (by simpa [movedToQueue, first] using there)
    · exact .inl rfl
  case cloneRefused at_ ap first =>
    simp only [Machine.ctxReady, at_] at ready
    obtain ⟨da, ⟨ivChain, keyChain, doneChain, -⟩, there, -⟩ := ready
    simp only [Machine.ctxReady, at_]
    exact ⟨da, ⟨ivChain, keyChain, doneChain, fun _ => rfl⟩, .inr (by simpa [movedToQueue, first] using there), fun _ => ap⟩
  case delivered => trivial

/-- The replay check's write keeps the store in form. -/
theorem PassStep.keysOk (h : PassStep s t) (ok : KeysOk s.ks) : KeysOk t.ks := by
  obtain e | ⟨i, k, lo, hi, hk, -, e⟩ := h.ks
  · rwa [e]
  · obtain ⟨unique, lengths⟩ := ok
    rw [e]
    refine ⟨keysUnique_set unique fun j y hj hy ⟨hv, hyv, hs⟩ => ?_, keyLengths_set lengths (lengths k (List.mem_of_getElem? hk))⟩
    exact hj (eq_of_sameKey unique hy hk hyv hv (sameKey_symm hs))

theorem PassStep.inv (h : PassStep s t) (i : Inv s) (active : s.stage.quiet = false) : Inv t := by
  have form := h.form i
  have ready := h.ctxReady i
  obtain ⟨-, lock, virtual, unique, bounded, keys, lengths, -⟩ := i
  obtain ⟨virtual', unique', bounded'⟩ := h.st.ok ⟨virtual, unique, bounded⟩
  obtain ⟨keys', lengths'⟩ := h.keysOk ⟨keys, lengths⟩
  exact ⟨form, h.lockDiscipline active lock, virtual', unique', h.par ▸ bounded', keys', lengths', ready⟩

theorem pipeMove_inv (i : Inv s) (h : pipeMove s = .next t) : Inv t := by
  cases active : s.stage.quiet with
  | true =>
    rw [pipeMove_of_quiet active] at h
    cases h
    exact i
  | false =>
    obtain ⟨-, rfl⟩ | pass | ⟨r, u, raised, rfl⟩ := pipeMove_next h
    · exact i
    · exact pass.inv i active
    · exact raised.inv i r

/-! ### A move of the host -/

/-- LOCK is free between passes alone (R86). -/
theorem quiet_of_free (i : Inv s) (free : s.lock = false) : s.stage.quiet = true := by
  obtain ⟨-, ⟨lock, -⟩, -⟩ := i
  simpa [free] using lock

theorem HostStep.inv (h : HostStep s t) (i : Inv s) : Inv t := by
  have quiet := quiet_of_free i
  have tables : ∀ free : s.lock = false, s.frm = none ∧ StationsOk s.par.psqCap s.st ∧ KeysOk s.ks := fun free =>
    ((inv_quiet_iff (quiet free)).1 i).2
  cases h
  case same => exact i
  case accept free b n m =>
    obtain ⟨-, ⟨virtual, unique, bounded⟩, keys, lengths⟩ := tables free
    exact ⟨wf_submit b m, ⟨rfl, nofun⟩, virtual, unique, bounded, keys, lengths, rfl, rfl, rfl⟩
  case config free c => exact (inv_quiet_iff (s := { s with cfg := c }) (quiet free)).2 ⟨free, tables free⟩
  case keys ks free ok =>
    obtain ⟨frm, stations, keys⟩ := tables free
    exact (inv_quiet_iff (s := { s with ks := ks }) (quiet free)).2 ⟨free, frm, stations, ok keys⟩
  case stations st free ok =>
    obtain ⟨frm, stations, keys⟩ := tables free
    exact (inv_quiet_iff (s := { s with st := st }) (quiet free)).2 ⟨free, frm, ok stations, keys⟩
  case reset => exact (inv_quiet_iff rfl).2 ⟨rfl, rfl, stationsOk_reset _ _, keysOk_reset _⟩

/-- The invariant does not speak of the world outside. -/
theorem inv_popMove (i : Inv s) : Inv s.popMove := i

theorem inv_withReply {r : Reply} (i : Inv s) : Inv (s.withReply r) := i

/-! ### The transmitter (R45, R165) -/

/-- A data frame that has passed the filter's place unfiltered has done so outside access-point mode. -/
theorem apMode_of_filtered (h : Filtered s) (tag : s.ctx.tag = some .data) (at_ : s.stage = .classified) :
    s.cfg.apMode = false := by
  obtain ⟨-, ap | mgmt⟩ | later := h
  · exact ap
  · rw [tag] at mgmt
    cases mgmt
  · rw [at_] at later
    cases later

/-- The transmitter is a matter of the pass's registers, the configuration and the stations' identities alone. -/
theorem transmitterAssociated_of_kept (h : transmitterAssociated s) (first : s.stage = .classified → s.cfg.apMode = false)
    (after : s.stage = .classified ∨ s.stage = .apFiltered ∨ s.stage = .decrypted ∨ s.stage = .defragmented
      ∨ s.stage = .replayChecked ∨ s.stage = .headerTranslated)
    (cfg : t.cfg = s.cfg) (ta : t.ctx.ta = s.ctx.ta)
    (st : t.st.map StaEntry.identity = s.st.map StaEntry.identity) : transmitterAssociated t := by
  have kept : t.cfg.apMode = true →
      ∃ a i e, t.ctx.ta = some a ∧ stLookup t.st a = some i ∧ t.st[i]? = some e ∧ e.assoc = .associated := by
    intro ap
    rw [cfg] at ap
    have : ∃ a i e, s.ctx.ta = some a ∧ stLookup s.st a = some i ∧ s.st[i]? = some e ∧ e.assoc = .associated := by
      rcases after with e | e | e | e | e | e
      · rw [first e] at ap
        cases ap
      all_goals
        simp only [transmitterAssociated, e] at h
        exact h ap
    obtain ⟨a, i, e, ha, hi, he, hassoc⟩ := this
    obtain ⟨e', he', hassoc'⟩ := assoc_of_identities st he
    exact ⟨a, i, e', ta.trans ha, (stLookup_of_identities st a).trans hi, he', hassoc'.trans hassoc⟩
  cases e : t.stage
  case idle | raw | lengthValidated | classified | delivered | dropped => simp only [transmitterAssociated, e]
  all_goals simpa only [transmitterAssociated, e] using kept

theorem transmitterAssociated_of_quiet (h : s.stage.quiet = true) : transmitterAssociated s := by
  cases e : s.stage
  case idle | delivered | dropped => simp only [transmitterAssociated, e]
  all_goals simp [e, Stage.quiet] at h

/-- An operation of DECRYPT that leaves the stage as it is. -/
theorem transmitterAssociated_of_filtered (at_ : Filtered s) (h : transmitterAssociated s) (stage : t.stage = s.stage)
    (cfg : t.cfg = s.cfg) (ta : t.ctx.ta = s.ctx.ta) (st : t.st = s.st) : transmitterAssociated t := by
  obtain ⟨e, -⟩ | e := at_
  · simp only [transmitterAssociated, stage, e]
  · exact transmitterAssociated_of_kept h (by simp [e]) (.inr (.inl e)) cfg ta (by rw [st])

theorem PassStep.transmitterAssociated (h : PassStep s t) (ok : transmitterAssociated s) : transmitterAssociated t := by
  cases h
  case lenchk | classify | delivered => trivial
  case apctl at_ ta found entry assoc stations events =>
    intro _
    obtain ⟨e', he', hassoc⟩ := assoc_of_identities stations.identities entry
    exact ⟨_, _, e', ta, (stLookup_of_identities stations.identities _).trans found, he', hassoc.trans assoc⟩
  case ivparse at_ _ _ _ => exact transmitterAssociated_of_filtered at_ ok rfl rfl rfl rfl
  case keysel at_ _ _ => exact transmitterAssociated_of_filtered at_ ok rfl rfl rfl rfl
  case cipherchk at_ _ _ => exact transmitterAssociated_of_filtered at_ ok rfl rfl rfl rfl
  case decipher at_ _ _ _ _ => exact transmitterAssociated_of_filtered at_ ok rfl rfl rfl rfl
  case strip at_ tag _ _ =>
    refine transmitterAssociated_of_kept ok (apMode_of_filtered at_ tag) ?_ rfl rfl rfl
    obtain ⟨e, -⟩ | e := at_ <;> simp [e]
  case defrag at_ tag _ =>
    refine transmitterAssociated_of_kept ok (fun e => apMode_of_filtered (at_.resolve_right (by simp [e])) tag e) ?_ rfl rfl rfl
    obtain (⟨e, -⟩ | e) | e := at_ <;> simp [e]
  case rplchk at_ _ _ =>
    refine transmitterAssociated_of_kept ok (fun e => ?_) ?_ rfl rfl rfl
    · obtain h | h := at_ <;> rw [e] at h <;> cases h
    · obtain e | e := at_ <;> simp [e]
  case hdrxlt at_ tag _ _ _ =>
    refine transmitterAssociated_of_kept ok (fun e => apMode_of_filtered (at_.resolve_right (by simp [e])) tag e) ?_ rfl rfl rfl
    obtain (⟨e, -⟩ | e) | e | e | e := at_ <;> simp [e]
  case route at_ _ _ stations _ =>
    exact transmitterAssociated_of_kept ok (by simp [at_]) (by simp [at_]) rfl rfl stations.identities
  case cloneRefused at_ _ _ => exact transmitterAssociated_of_kept ok (by simp [at_]) (by simp [at_]) rfl rfl rfl

theorem HostStep.transmitterAssociated (h : HostStep s t) (i : Inv s) (ok : transmitterAssociated s) :
    transmitterAssociated t := by
  have quiet := quiet_of_free i
  cases h
  case same => exact ok
  case accept | reset => trivial
  case config free c => exact transmitterAssociated_of_quiet (s := { s with cfg := c }) (quiet free)
  case keys ks free _ => exact transmitterAssociated_of_quiet (s := { s with ks := ks }) (quiet free)
  case stations st free _ => exact transmitterAssociated_of_quiet (s := { s with st := st }) (quiet free)

end Sys2Proof.Machine

namespace Sys2Proof.Proofs
open Sys2Proof.Machine

/-- Settles O9: the reset state is between passes, its tables hold one valid entry and no key. -/
theorem resetMeetsInv : Obligations.ResetMeetsInv :=
  (inv_quiet_iff rfl).2 ⟨rfl, rfl, stationsOk_reset _ _, keysOk_reset _⟩

/-- Settles O10: a move of the pipeline keeps the invariant by its operation, one of the host by its effect. -/
theorem stepKeepsInv : Obligations.StepKeepsInv := by
  intro s t i h
  obtain ⟨x, hx, e⟩ | ⟨u, r, host, e⟩ := step_cases s <;> rw [e] at h
  · obtain rfl | rfl := hx
    · exact pipeMove_inv i h
    · exact pipeMove_inv (inv_popMove i) h
  · cases h
    exact inv_withReply (host.inv (inv_popMove i))

/-- Settles O11: an operation that is issued finds every register it reads, and a host operation never stops the block. -/
theorem stepNeverStuck : Obligations.StepNeverStuck := by
  intro s i
  obtain ⟨x, hx, e⟩ | ⟨u, r, -, e⟩ := step_cases s <;> rw [e]
  · obtain rfl | rfl := hx
    · exact pipeMove_not_stuck i
    · exact pipeMove_not_stuck (inv_popMove i)
  · exact ⟨_, rfl⟩

/-- Settles O13: APCTL lets only an Associated transmitter on, and nothing later in the pass changes what it saw. -/
theorem transmitterStaysAssociated : Obligations.TransmitterStaysAssociated := by
  intro s t i ok h
  have pipe : ∀ {x : State}, transmitterAssociated x → pipeMove x = .next t → transmitterAssociated t := by
    intro x ok h
    obtain ⟨-, rfl⟩ | pass | ⟨r, u, -, rfl⟩ := pipeMove_next h
    · exact ok
    · exact pass.transmitterAssociated ok
    · trivial
  obtain ⟨x, hx, e⟩ | ⟨u, r, host, e⟩ := step_cases s <;> rw [e] at h
  · obtain rfl | rfl := hx
    · exact pipe ok h
    · exact pipe (x := s.popMove) ok h
  · cases h
    exact host.transmitterAssociated (inv_popMove i) ok

end Sys2Proof.Proofs
end

section
/-! PROOFS. Single operations and lookups of the state's tables: reset, the lookups, ROUTE, KEYSEL, H.FRAME_IN, H.CFG_WRITE and
H.KEY_DEL (R36, R43, R46, R52, R180, R207, R310, R342, R345). -/
namespace Sys2Proof.Machine

variable {s : State}

/-! ### The lookups (R36, R37, R42, R43) -/

/-- Where keys are unique a record that answers is the one found (R37). -/
theorem ksLookup_of_unique {ks : List KeyRec} (hu : keysUnique ks) {sc : Scope} {a : Addr} {i : BitVec 2} {h : Nat} {k : KeyRec}
    (hk : ks[h]? = some k) (ha : k.answers sc a i = true) : ksLookup ks sc a i = some h := by
  refine ksLookup_of hk ha fun j y hj hy => ?_
  by_contra hya
  rw [Bool.not_eq_false] at hya
  have : j = h := eq_of_sameKey hu hy hk ((answers_iff _ _ _ _).1 hya).1 ((answers_iff _ _ _ _).1 ha).1
    (sameKey_of_answers hya ha)
  omega

/-- Where addresses are unique a valid entry of the address, other than entry 0, is the one found (R43). -/
theorem stLookup_of_unique {st : List StaEntry} (hu : stationsUnique st) {a : Addr} {j : Nat} {e : StaEntry} (hj : 1 ≤ j)
    (he : st[j]? = some e) (hv : e.valid = true) (ha : e.addr = a) : stLookup st a = some j := by
  cases hl : stLookup st a with
  | none =>
    have hm : (st.drop 1)[j - 1]? = some e := by
      rw [List.getElem?_drop, ← he]
      congr 1
      omega
    exact absurd ⟨hv, ha⟩ (stLookup_none.1 hl e (List.mem_of_getElem? hm))
  | some i =>
    obtain ⟨-, x, hx, hxv, hxa, -⟩ := stLookup_some hl
    have : i = j := index_eq_of_pairwise (fun _ _ h ⟨hb, ha, e⟩ => h ⟨ha, hb, e.symm⟩) hu hx he
      fun h => h ⟨hxv, hv, hxa.trans ha.symm⟩
    rw [this]

/-- The index plays no part in the lookup of a pairwise key (R36). -/
theorem ksLookup_pairwise (ks : List KeyRec) (a : Addr) (i j : BitVec 2) :
    ksLookup ks .pairwise a i = ksLookup ks .pairwise a j := rfl

/-- With its one record made invalid a key is no longer found (R345). -/
theorem ksLookup_invalidated {ks : List KeyRec} (hu : keysUnique ks) {sc : Scope} {a : Addr} {i : BitVec 2} {h : Nat}
    (hl : ksLookup ks sc a i = some h) {x : KeyRec} (hx : x.valid = false) : ksLookup (ks.set h x) sc a i = none := by
  rw [ksLookup_none]
  intro y hy
  obtain ⟨j, hj⟩ := List.mem_iff_getElem?.1 hy
  by_contra hya
  rw [Bool.not_eq_false] at hya
  have hyv := ((answers_iff _ _ _ _).1 hya).1
  by_cases e : h = j
  · subst e
    have hlt := (List.getElem?_eq_some_iff.1 hj).1
    rw [List.getElem?_set_self (by simpa using hlt)] at hj
    cases hj
    rw [hx] at hyv
    cases hyv
  · rw [List.getElem?_set_ne e] at hj
    obtain ⟨k, hk, hka, -⟩ := ksLookup_some hl
    exact e (eq_of_sameKey hu hk hj ((answers_iff _ _ _ _).1 hka).1 hyv (sameKey_of_answers hka hya))

/-! ### ROUTE (R180) -/

/-- ROUTE runs the row that its decision selects (R180). -/
theorem exec_route {a : Addr} (h : s.ctx.da = some a) :
    exec .route s
      = finish (runRoute (rteRow (countAssoc s.st) (groupAddressed a) (anyPs s.st) (associatedPs s.st a))) s := by
  simp [exec, execRoute, finish, opRoute, EStateM.run_bind, h]

section Rows
variable {n : Nat} {ps : Bool} {d : Option Bool}

theorem rteRow_zero {g : Bool} : rteRow 0 g ps d = .nosta := rfl

theorem rteRow_group (h : n ≠ 0) : rteRow n true ps d = if ps then .mcq else .flood := by simp [rteRow, h]

theorem rteRow_associated (h : n ≠ 0) (b : Bool) : rteRow n false ps (some b) = if b then .ucq else .ucrelay := by
  cases b <;> simp [rteRow, h]

theorem rteRow_other (h : n ≠ 0) : rteRow n false ps none = .toStack := by simp [rteRow, h]

end Rows

/-- `count_assoc` in R46's words. -/
theorem countAssoc_eq (st : List StaEntry) :
    countAssoc st = ((st.drop 1).filter fun e => decide (e.valid = true ∧ e.assoc = .associated)).length := by
  unfold countAssoc
  rw [List.countP_eq_length_filter]
  congr 2
  funext e
  simp [Bool.decide_and, beq_eq_decide]

/-- `any_ps` in R46's words. -/
theorem anyPs_iff {st : List StaEntry} {e0 : StaEntry} (h0 : st[0]? = some e0) :
    anyPs st = true ↔ e0.ps = true ∨ ∃ e ∈ st.drop 1, e.valid = true ∧ e.ps = true := by
  cases st with
  | nil => cases h0
  | cons x rest =>
    cases h0
    simp [anyPs]

/-- The associated entry of an address, where the lookup finds an entry (R180). -/
theorem associatedPs_of_found {st : List StaEntry} {a : Addr} {i : Nat} {e : StaEntry} (hl : stLookup st a = some i)
    (he : st[i]? = some e) : associatedPs st a = if e.assoc = .associated then some e.ps else none := by
  simp [associatedPs, hl, he]

theorem associatedPs_of_none {st : List StaEntry} {a : Addr} (hl : stLookup st a = none) : associatedPs st a = none := by
  simp [associatedPs, hl]

/-- ROUTE.MCQ: the clone is queued with the virtual station, or refused and counted (R183, R184). -/
theorem finish_routeMcq {f : Frame} {e0 : StaEntry} (hf : s.frm = some f) (h0 : s.st[0]? = some e0) :
    finish opRouteMcq s
      = .next (if e0.q.length < s.par.psqCap then
          { s with
            ctx := { s.ctx with route := some .queuedMcast, toStack := some true }
            st := s.st.set 0 { e0 with q := e0.q ++ [f.packet] } }
        else { s with
            ctx := { s.ctx with route := some .queuedMcast, toStack := some true }
            stat := s.stat.bump .psqOverflow }) := by
  by_cases room : e0.q.length < s.par.psqCap
  · apply finish_of_ok
    simp [opRouteMcq, pushClone, setRoute, EStateM.run_bind, hf, h0, room, modifySta_some h0, modify_eq_set h0]
  · apply finish_of_ok
    simp [opRouteMcq, pushClone, setRoute, EStateM.run_bind, hf, h0, room]

section Destination
variable {a : Addr} {i : Nat} {e : StaEntry} (hda : s.ctx.da = some a) (hl : stLookup s.st a = some i)
include hda hl

theorem destination_run : destination.run s = .ok i s := by
  simp [destination, EStateM.run_bind, hda, hl]

/-- ROUTE.UCRELAY (R182). -/
theorem finish_routeUcrelay :
    finish opRouteUcrelay s = .next { s with ctx := { s.ctx with route := some (.relayUcast i), toStack := some false } } := by
  apply finish_of_ok
  simp [opRouteUcrelay, setRoute, EStateM.run_bind, destination_run hda hl]

/-- ROUTE.UCQ: the frame is moved into the destination's queue, or dropped where that is full (R182, R186). -/
theorem finish_routeUcq {f : Frame} (hf : s.frm = some f) (he : s.st[i]? = some e) :
    finish opRouteUcq s
      = .next (if e.q.length < s.par.psqCap then
          { s with
            ctx := { s.ctx with route := some (.queuedSta i), toStack := some false }
            frm := none
            st := s.st.set i { e with q := e.q ++ [f.packet] } }
        else dropPath .queueOverflow s) := by
  by_cases room : e.q.length < s.par.psqCap
  · rw [if_pos room]
    apply finish_of_ok
    simp [opRouteUcq, opPsqPush, setRoute, EStateM.run_bind, destination_run hda hl, he, hf, room, modifySta_some he,
      modify_eq_set he]
  · rw [if_neg room]
    apply finish_of_raise
    simp [opRouteUcq, opPsqPush, EStateM.run_bind, destination_run hda hl, he, room]

end Destination

/-! ### KEYSEL (R207) -/

theorem akmIsWpa_eq (a : Akm) : akmIsWpa a = decide (1 ≤ a.code.toNat) := by cases a <;> rfl

theorem pairwiseConfigured_eq (u : Suite) : pairwiseConfigured u = decide (u.code ≠ 0) := by cases u <;> rfl

/-- Condition (a) selects the row (R207). -/
theorem ksel1Row_ofBool (b : Bool) : ksel1Row (BitVec.ofBool b) = if b then .pw else .grp := by cases b <;> rfl

/-- The lookup that condition (a) chooses (R207, R208). -/
theorem runKsel1_run {ta : Addr} {ki : BitVec 2} (hta : s.ctx.ta = some ta) (hki : s.ctx.kidx = some ki) (pw : Bool) :
    (runKsel1 (if pw then .pw else .grp)).run s
      = .ok (if pw then ksLookup s.ks .pairwise ta 0 else ksLookup s.ks .group s.cfg.bssid ki)
          { s with ctx := { s.ctx with usePw := some pw } } := by
  cases pw
  · simp [runKsel1, lookupGroup, EStateM.run_bind, hki]
  · simp [runKsel1, lookupPairwise, EStateM.run_bind, hta]

/-- The key found, or the broadcast group key, or NoKey (R207, R210). -/
theorem finish_orBroadcast {ki : BitVec 2} (hki : s.ctx.kidx = some ki) (k : Option Nat) :
    finish (orBroadcast k) s
      = .next (match k with
        | some h => { s with ctx := { s.ctx with key := some h } }
        | none =>
          match ksLookup s.ks .group Addr.broadcast ki with
          | some h => { s with ctx := { s.ctx with key := some h } }
          | none => dropPath .noKey s) := by
  cases k with
  | some h => rfl
  | none =>
    cases hl : ksLookup s.ks .group Addr.broadcast ki with
    | some h =>
      apply finish_of_ok
      simp [orBroadcast, opKeyselBcast, EStateM.run_bind, hki, hl, keepKey]
    | none =>
      apply finish_of_raise
      simp [orBroadcast, opKeyselBcast, EStateM.run_bind, hki, hl]

/-- An operation whose first part completes goes on from there. -/
theorem finish_bind_of_ok {γ : Type} {m : Act γ} {f : γ → Act Unit} {t : State} {x : γ} (h : m.run s = .ok x t) :
    finish (m >>= f) s = finish (f x) t := by
  unfold finish
  rw [run_bind_of_ok h]

/-! ### The host's writes (R342, R345) -/

theorem exec_hCfgWrite_of_some {r v : Nat} {c : Cfg} (free : s.lock = false) (h : cfgWritten s.cfg r v = some c) :
    exec (.hCfgWrite r v) s = .next (({ s with cfg := c } : State).withReply .done) := by
  simp [exec, execHCfgWrite, hostOp_free free, hostCfgWrite, h]

theorem exec_hCfgWrite_of_none {r v : Nat} (free : s.lock = false) (h : cfgWritten s.cfg r v = none) :
    exec (.hCfgWrite r v) s = .next (s.withReply .refused) := by
  simp [exec, execHCfgWrite, hostOp_free free, hostCfgWrite, h]

theorem akmOfNat_code (a : Akm) : akmOfNat a.code.toNat = some a := by cases a <;> rfl

theorem suiteOfNat_code (u : Suite) : suiteOfNat u.code.toNat = some u := by cases u <;> rfl

theorem akmOfNat_none {v : Nat} (h : 4 < v) : akmOfNat v = none := by
  unfold akmOfNat
  split
  case h_6 => rfl
  all_goals omega

theorem suiteOfNat_none {v : Nat} (h : 3 < v) : suiteOfNat v = none := by
  unfold suiteOfNat
  split
  case h_5 => rfl
  all_goals omega

theorem cfgRegOfNat_none {r : Nat} (h : 4 < r) : cfgRegOfNat r = none := by
  unfold cfgRegOfNat
  split
  case h_6 => rfl
  all_goals omega

theorem scopeOfNat_none {v : Nat} (h : 2 ≤ v) : scopeOfNat v = none := by
  unfold scopeOfNat
  split
  case h_3 => rfl
  all_goals omega

/-- CFG.BSSID's number is its six bytes, the least significant first (log 3). -/
theorem addrOf_leBytes (a : Addr) : addrOf (leBytes 6 (ofLeBytes a.toList)) = a := by
  rw [show (6 : Nat) = a.toList.length from rfl, leBytes_ofLeBytes]
  rfl

theorem exec_hKeyDel_of_some {sc n h : Nat} {a : Addr} {k : KeyRec} (free : s.lock = false)
    (hd : keyToDelete s.ks sc a n = some h) (hk : s.ks[h]? = some k) :
    exec (.hKeyDel sc a n) s = .next (({ s with ks := s.ks.set h { k with valid := false } } : State).withReply .done) := by
  simp [exec, execHKeyDel, hostOp_free free, hostKeyDel, hd, modify_eq_set hk]

theorem exec_hKeyDel_of_none {sc n : Nat} {a : Addr} (free : s.lock = false) (hd : keyToDelete s.ks sc a n = none) :
    exec (.hKeyDel sc a n) s = .next (s.withReply .done) := by
  simp [exec, execHKeyDel, hostOp_free free, hostKeyDel, hd]

end Sys2Proof.Machine

namespace Sys2Proof.Proofs
open Sys2Proof.Machine

/-- Settles O8: the reset state, field by field. -/
theorem resetValues : Obligations.ResetValues := by
  refine ⟨fun nKeys nSta p e hn => ?_, 8, 8, Params.named, Env.quiet, by decide, rfl⟩
  refine ⟨rfl, rfl, rfl, rfl, rfl, rfl, rfl, rfl, fun c => by cases c <;> rfl, List.length_replicate, fun k hk => ?_, ?_,
    ⟨StaEntry.virtual, rfl, rfl, rfl, rfl, rfl, rfl⟩, fun x hx => ?_, rfl, rfl⟩
  · rw [(List.mem_replicate.1 hk).2]
    rfl
  · simp only [State.resetWith_st, resetStations, List.length_cons, List.length_replicate]
    omega
  · rw [(List.mem_replicate.1 hx).2]
    exact ⟨rfl, rfl⟩

/-- Settles O21: the lookups' own rules, and for the last clause of each that two answers stand at one place. -/
theorem lookupsAnswer : Obligations.LookupsAnswer := by
  refine ⟨fun ks sc a i => ⟨fun h e => ?_, ?_, fun hu h k hk hm => ksLookup_of_unique hu hk ((answers_iff _ _ _ _).2 hm)⟩,
    fun st a => ⟨fun j e => ?_, stLookup_none, fun hu j e hj he hv ha => stLookup_of_unique hu hj he hv ha⟩⟩
  · obtain ⟨k, hk, ha, -⟩ := ksLookup_some e
    exact ⟨k, hk, (answers_iff _ _ _ _).1 ha⟩
  · rw [ksLookup_none]
    refine forall₂_congr fun k _ => ?_
    rw [← Bool.not_eq_true, answers_iff]
  · obtain ⟨hj, x, hx, hv, ha, -⟩ := stLookup_some e
    exact ⟨hj, x, hx, hv, ha⟩

/-- Settles O30: by the number of associated stations, the group bit, and what the lookup of the destination finds. -/
theorem routeDecision : Obligations.RouteDecision := by
  intro s a f e0 n dozing hda hf h0 hn hdozing routed
  have hcount : countAssoc s.st = n := (countAssoc_eq s.st).trans hn.symm
  have hps : anyPs s.st = dozing := Bool.eq_iff_iff.2 ((anyPs_iff h0).trans hdozing.symm)
  have hgroup : groupAddressed a = a.b0.getLsbD 0 := rfl
  rw [exec_route hda, hcount, hps, hgroup]
  by_cases zero : n = 0
  · rw [if_pos zero, zero, rteRow_zero]
    rfl
  rw [if_neg zero]
  by_cases group : a.b0.getLsbD 0 = true
  · rw [if_pos group, group, rteRow_group zero]
    cases dozing
    · rfl
    · exact finish_routeMcq hf h0
  rw [if_neg group, Bool.eq_false_iff.2 group]
  cases hl : stLookup s.st a with
  | none =>
    rw [associatedPs_of_none hl, rteRow_other zero]
    rfl
  | some i =>
    obtain ⟨-, e, he, -⟩ := stLookup_some hl
    simp only [associatedPs_of_found hl he, Option.bind_some, he, Option.map_some]
    by_cases assoc : e.assoc = .associated
    · rw [if_pos assoc, if_pos assoc, rteRow_associated zero]
      by_cases ps : e.ps = true
      · rw [if_pos ps, if_pos ps]
        exact finish_routeUcq hda hl hf he
      · rw [if_neg ps, if_neg ps]
        exact finish_routeUcrelay hda hl
    · rw [if_neg assoc, if_neg assoc, rteRow_other zero]
      rfl

/-- Settles O34: condition (a) picks the row, its lookup comes first, the broadcast group key is the fallback. -/
theorem keysel : Obligations.Keysel := by
  intro s mcast ta ki anyIndex pw c hm hta hki hpw hc
  have row : ksel1Row (ksel1Word s.cfg.akm mcast s.cfg.pairwiseSuite) = if pw then .pw else .grp := by
    rw [ksel1Word, akmIsWpa_eq, pairwiseConfigured_eq, ← hpw, ksel1Row_ofBool]
  subst hc
  calc exec .keysel s
      = finish (orBroadcast (if pw then ksLookup s.ks .pairwise ta 0 else ksLookup s.ks .group s.cfg.bssid ki))
          { s with ctx := { s.ctx with usePw := some pw } } := by
        refine (finish_bind_of_ok (readCtx_some hm)).trans ((finish_bind_of_ok (look_apply _ _)).trans ?_)
        rw [row]
        exact finish_bind_of_ok (runKsel1_run hta hki pw)
    _ = _ := by
        rw [ksLookup_pairwise s.ks ta anyIndex 0]
        exact finish_orBroadcast (s := { s with ctx := { s.ctx with usePw := some pw } }) hki _

/-- Settles O53: the free lock and the quiet stage are the two tests, one after the other. -/
theorem frameIn : Obligations.FrameIn := by
  intro s b n m
  have quiet : s.stage.quiet = true ↔ s.stage = .idle ∨ s.stage = .delivered ∨ s.stage = .dropped := by
    cases s.stage <;> decide
  change hostOp (hostFrameIn b n m) s = _
  by_cases lock : s.lock = true
  · rw [hostOp_locked lock, if_neg (by simp [lock])]
    rfl
  · rw [Bool.not_eq_true] at lock
    rw [hostOp_free lock]
    unfold hostFrameIn
    by_cases q : s.stage.quiet = true
    · rw [if_pos q, if_pos ⟨quiet.1 q, lock⟩]
      rfl
    · rw [if_neg q, if_neg fun h => q (quiet.2 h.1)]
      rfl

/-- Settles O54, register by register: the value's range decides between the write and the refusal. -/
theorem cfgWrite : Obligations.CfgWrite := by
  intro s v free done refused
  have written {r v c} := @exec_hCfgWrite_of_some s r v c free
  have rejected {r v} := @exec_hCfgWrite_of_none s r v free
  refine ⟨?_, fun a ha => ?_, fun hv => ?_, fun u hu => ⟨?_, ?_⟩, fun hv => ⟨?_, ?_⟩, fun a ha => ?_, fun hv => ?_, fun r hr => ?_⟩
  · split
    · next h => exact written (by rw [h]; rfl)
    · split
      · next h => exact written (by rw [h]; rfl)
      · exact rejected (if_neg (by omega))
  · exact written (by simp [cfgWritten, cfgRegOfNat, ha, akmOfNat_code])
  · exact rejected (by simp [cfgWritten, cfgRegOfNat, akmOfNat_none hv])
  · exact written (by simp [cfgWritten, cfgRegOfNat, hu, suiteOfNat_code])
  · exact written (by simp [cfgWritten, cfgRegOfNat, hu, suiteOfNat_code])
  · exact rejected (by simp [cfgWritten, cfgRegOfNat, suiteOfNat_none hv])
  · exact rejected (by simp [cfgWritten, cfgRegOfNat, suiteOfNat_none hv])
  · have range : v < 2 ^ 48 :=
      calc v = ofLeBytes a.toList := ha
        _ < 256 ^ 6 := ofLeBytes_lt a.toList
        _ = 2 ^ 48 := by norm_num
    refine written ?_
    simp only [cfgWritten, cfgRegOfNat, if_pos range]
    rw [ha, addrOf_leBytes]
  · exact rejected (if_neg (by omega))
  · exact rejected (by simp [cfgWritten, cfgRegOfNat_none hr])

/-- Settles O56: the operands name one lookup, and the record that it finds becomes invalid. -/
theorem keyDel : Obligations.KeyDel := by
  intro s a n free
  refine ⟨fun h k hl hk => ⟨exec_hKeyDel_of_some free hl hk, fun hu => ksLookup_invalidated hu hl rfl⟩,
    fun hl => exec_hKeyDel_of_none free hl, fun h k hn hl hk => ⟨?_, fun hu => ksLookup_invalidated hu hl rfl⟩,
    fun hl => ?_, fun scope hs => ?_⟩
  · exact exec_hKeyDel_of_some free (by simp [keyToDelete, scopeOfNat, hn, hl]) hk
  · refine exec_hKeyDel_of_none free ?_
    simp only [keyToDelete, scopeOfNat]
    split
    · next hn => exact hl.resolve_left (by omega)
    · rfl
  · exact exec_hKeyDel_of_none free (by simp [keyToDelete, scopeOfNat_none hs])

end Sys2Proof.Proofs
end

section
/-! PROOFS. The frame space where the bounds rule decides, the step's two movers, and the host while a pass runs (R74 to R78, R84,
R311, R312, R340, R354). -/
namespace Sys2Proof.Machine

variable {s : State}

/-! ### The memory operations where the bounds rule decides (R76, R78) -/

section Bounds
variable {f : Frame} {n : Nat}

theorem advanceHead_of_short (hf : s.frm = some f) (h : f.len < n) :
    (advanceHead n).run s = .error (.raise .malformedTruncated) s := by
  simp [advanceHead, EStateM.run, hf, h]

theorem truncateTail_of_fits (hf : s.frm = some f) (h : n ≤ f.len) :
    (truncateTail n).run s = .ok () { s with frm := some (f.truncate n) } := by
  simp only [truncateTail, EStateM.run, hf]
  rw [if_neg (by omega)]

theorem truncateTail_of_short (hf : s.frm = some f) (h : f.len < n) :
    (truncateTail n).run s = .error (.raise .malformedTruncated) s := by
  simp [truncateTail, EStateM.run, hf, h]

end Bounds

/-! ### The movers of a step (R84, R311, log 7) -/

section Movers
variable {rest : List HostMove}

theorem popMove_of_port {m : HostMove} (port : s.env.port = m :: rest) :
    s.popMove = { s with env := { s.env with port := rest } } := by
  simp [State.popMove, port]

theorem step_of_command {bytes : List Byte} (port : s.env.port = .command bytes :: rest) :
    step s = hostMove bytes { s with env := { s.env with port := rest } } := by
  rw [← popMove_of_port port]
  simp only [step, port]

theorem step_of_readKey {handle : Nat} (port : s.env.port = .readKey handle :: rest) :
    step s = keyReadMove handle { s with env := { s.env with port := rest } } := by
  rw [← popMove_of_port port]
  simp only [step, port]

theorem step_of_yield (port : s.env.port = .yield :: rest) :
    step s = pipeMove { s with env := { s.env with port := rest } } := by
  rw [← popMove_of_port port]
  simp only [step, port]

theorem step_of_port_nil (port : s.env.port = []) : step s = pipeMove s := by
  simp only [step, port]

end Movers

theorem hostMove_of_decode {bytes : List Byte} {i : Instr} (hd : decode (.hostcmd bytes) = .ok i) :
    hostMove bytes s = exec i s := by
  simp only [hostMove, hd]

theorem pipeMove_of_issue {c : Code} {i : Instr} (h : issue s = .code c) (hd : decode c = .ok i) :
    pipeMove s = exec i s := by
  simp only [pipeMove, h, hd]

/-- The sequencer reads STAGE, CFG and CTX only, so the host's schedule plays no part in what it issues (R312). -/
theorem issue_of_env (e : Env) : issue { s with env := e } = issue s := rfl

/-! ### The host while a pass runs (R340, R354) -/

/-- Every host operation but H.RESET stands under the rule of R340. -/
theorem exec_eq_hostOp {i : Instr} (h : isHostOperation i = true) (hr : i ≠ .hReset) :
    ∃ f, ∀ s, exec i s = hostOp f s := by
  cases i
  case hFrameIn b n m => exact ⟨hostFrameIn b n m, fun _ => rfl⟩
  case hCfgWrite r v => exact ⟨hostCfgWrite r v, fun _ => rfl⟩
  case hKeySet sc a ki su m lo hi => exact ⟨hostKeySet sc a ki su m lo hi, fun _ => rfl⟩
  case hKeyDel sc a ki => exact ⟨hostKeyDel sc a ki, fun _ => rfl⟩
  case hStaSet i a v => exact ⟨hostStaSet i a v, fun _ => rfl⟩
  case hStaDel i => exact ⟨hostStaDel i, fun _ => rfl⟩
  case hPsPop i => exact ⟨hostPsPop i, fun _ => rfl⟩
  case hSta0PsClear => exact ⟨hostSta0PsClear, fun _ => rfl⟩
  case hStatRead n => exact ⟨hostStatRead n, fun _ => rfl⟩
  case hReset => exact absurd rfl hr
  all_goals cases h

theorem exec_hReset (s : State) :
    exec .hReset s = .next ((State.resetWith s.ks.length s.st.length s.par s.env).withReply .done) := rfl

end Sys2Proof.Machine

namespace Sys2Proof.Proofs
open Sys2Proof.Machine

/-- Settles O18: a read that fits answers the slice at its offset. -/
theorem memReadBounded : Obligations.MemReadBounded := by
  intro s f off n hf hw
  rw [hf, wf_some] at hw
  exact ⟨memRead_of_short hf, fun fits => ⟨f.slice off n, memRead_of_fits hf hw fits, Frame.slice_length (by omega),
    fun _ hi => Frame.slice_getElem? f fits hi⟩⟩

/-- Settles O19: a write that fits lays its bytes over the buffer inside the live region. -/
theorem memWriteInPlace : Obligations.MemWriteInPlace := by
  intro s f off v hf form
  rw [hf] at form
  have hw := wf_some.1 form
  refine ⟨memWrite_of_short hf, fun fits => ?_⟩
  have inBuffer : f.head + off + v.length ≤ f.buf.length := by omega
  exact ⟨f.write off v, memWrite_of_fits hf hw fits, rfl, rfl, rfl, wf_write form inBuffer, Frame.byte?_write fits inBuffer⟩

/-- Settles O20, operation by operation. -/
theorem frameCuts : Obligations.FrameCuts := by
  intro s f hf form
  rw [hf] at form
  refine ⟨fun n => ⟨advanceHead_of_short hf, fun fits => ?_⟩, fun n => ⟨truncateTail_of_short hf, fun fits => ?_⟩, fun b => ?_⟩
  · exact ⟨f.advance n, advanceHead_of_fits hf fits, rfl, rfl, rfl, wf_advance form fits, Frame.byte?_advance f n⟩
  · exact ⟨f.truncate n, truncateTail_of_fits hf fits, rfl, rfl, rfl, wf_truncate form, Frame.byte?_truncate f n⟩
  · exact ⟨f.replace b, replaceFrame_some b hf, rfl, rfl, rfl, wf_replace f b, Frame.byte?_replace f b⟩

/-- Settles O60: all but H.RESET stand under the rule of R340, the reading of a key record included. -/
theorem lockedHostRefused : Obligations.LockedHostRefused := by
  refine ⟨fun i s host hr lock => ?_, fun s h rest port lock => ?_, exec_hReset⟩
  · obtain ⟨f, hx⟩ := exec_eq_hostOp host hr
    rw [hx]
    exact hostOp_locked lock
  · rw [step_of_readKey port]
    exact hostOp_locked lock

/-- Settles O6: the schedule's first move names the mover, and the mover runs what it decodes. -/
theorem stepRunsDecoded : Obligations.StepRunsDecoded := by
  refine ⟨fun s bytes rest i port hd _ => ?_, fun s rest c i port hi hd _ => ?_, fun s c i port hi hd _ => ?_,
    fun s port quiet => ?_⟩
  · rw [step_of_command port, hostMove_of_decode hd]
  · rw [step_of_yield port, pipeMove_of_issue ((issue_of_env _).trans hi) hd]
  · exact step_of_issue port hi hd
  · rw [step_of_port_nil port]
    refine pipeMove_of_quiet ?_
    obtain h | h | h := quiet <;> rw [h] <;> rfl

end Sys2Proof.Proofs
end

section
/-! PROOFS. The encodings: the decoder after the encoder, the rows of FC16 and SNAP8 by their fields, and the host's codes (R102,
R103, R110, R111, R112, R119, R121, R122, R288). -/
namespace Sys2Proof

/-! ### The host port's fields, read back (log 3) -/

theorem toNat_byteField {v : Nat} (h : v < 2 ^ 8) : (BitVec.ofNat 8 v).toNat = v := by
  rw [BitVec.toNat_ofNat, Nat.mod_eq_of_lt h]

theorem ofLeBytes_leBytes_four {v : Nat} (h : v < 2 ^ 32) : ofLeBytes (leBytes 4 v) = v :=
  ofLeBytes_leBytes 4 v (by omega)

theorem ofLeBytes_leBytes_eight {v : Nat} (h : v < 2 ^ 64) : ofLeBytes (leBytes 8 v) = v :=
  ofLeBytes_leBytes 8 v (by omega)

/-- The timestamp field holds every 64-bit timestamp. -/
theorem ofNat_timestampField (t : BitVec 64) : BitVec.ofNat 64 (ofLeBytes (leBytes 8 t.toNat)) = t := by
  rw [ofLeBytes_leBytes_eight t.isLt, BitVec.ofNat_toNat, BitVec.setWidth_eq]

/-! ### What the decoder reads from an encoded transaction, field by field (log 3)

Byte strings and addresses come back as they are; a number comes back through its field, whatever the number is. -/

theorem decode_encode_hFrameIn (b : List Byte) (n : Nat) (m : Meta) :
    decode (encode (.hFrameIn b n m)) = .ok (.hFrameIn b (ofLeBytes (leBytes 4 n)) m) := by
  calc decode (encode (.hFrameIn b n m))
      = if (metaFlags m).toNat < 8 then
          .ok (.hFrameIn b (ofLeBytes (leBytes 4 n))
            ⟨m.rssi, m.sq, m.rate, (metaFlags m).getLsbD 0, (metaFlags m).getLsbD 1, (metaFlags m).getLsbD 2,
              BitVec.ofNat 64 (ofLeBytes (leBytes 8 m.tstamp.toNat))⟩)
        else .error .badOperands := rfl
    _ = .ok (.hFrameIn b (ofLeBytes (leBytes 4 n)) m) := by
        rw [if_pos (metaFlags_lt m), metaFlags_crcOk, metaFlags_addrOk, metaFlags_newIcvOk, ofNat_timestampField]

theorem decode_encode_hCfgWrite (reg v : Nat) :
    decode (encode (.hCfgWrite reg v)) = .ok (.hCfgWrite (BitVec.ofNat 8 reg).toNat (ofLeBytes (leBytes 8 v))) := rfl

theorem decode_encode_hKeySet (sc : Nat) (a : Addr) (ki su : Nat) (m : List Byte) (lo hi : Nat) :
    decode (encode (.hKeySet sc a ki su m lo hi))
      = .ok (.hKeySet (BitVec.ofNat 8 sc).toNat a (BitVec.ofNat 8 ki).toNat (BitVec.ofNat 8 su).toNat m
          (ofLeBytes (leBytes 4 lo)) (ofLeBytes (leBytes 8 hi))) := rfl

theorem decode_encode_hKeyDel (sc : Nat) (a : Addr) (ki : Nat) :
    decode (encode (.hKeyDel sc a ki)) = .ok (.hKeyDel (BitVec.ofNat 8 sc).toNat a (BitVec.ofNat 8 ki).toNat) := rfl

theorem decode_encode_hStaSet (i : Nat) (a : Addr) (v : Nat) :
    decode (encode (.hStaSet i a v)) = .ok (.hStaSet (ofLeBytes (leBytes 4 i)) a (BitVec.ofNat 8 v).toNat) := rfl

theorem decode_encode_hStaDel (i : Nat) : decode (encode (.hStaDel i)) = .ok (.hStaDel (ofLeBytes (leBytes 4 i))) := rfl

theorem decode_encode_hPsPop (i : Nat) : decode (encode (.hPsPop i)) = .ok (.hPsPop (ofLeBytes (leBytes 4 i))) := rfl

theorem decode_encode_hStatRead (n : Nat) :
    decode (encode (.hStatRead n)) = .ok (.hStatRead (BitVec.ofNat 8 n).toNat) := rfl

/-! ### Fields that stand side by side -/

/-- Two neighbouring fields compared as one. -/
theorem extractLsb'_eq_append_iff {w lo m n : Nat} (x : BitVec w) (a : BitVec m) (b : BitVec n) :
    x.extractLsb' lo (m + n) = a ++ b ↔ x.extractLsb' (lo + n) m = a ∧ x.extractLsb' lo n = b := by
  rw [← BitVec.extractLsb'_append_extractLsb'_eq_extractLsb' rfl]
  constructor
  · intro h
    have hi := congrArg (BitVec.extractLsb' n m) h
    have low := congrArg (BitVec.extractLsb' 0 n) h
    rw [BitVec.extractLsb'_append_eq_left, BitVec.extractLsb'_append_eq_left] at hi
    rw [BitVec.extractLsb'_append_eq_right, BitVec.extractLsb'_append_eq_right] at low
    exact ⟨hi, low⟩
  · rintro ⟨rfl, rfl⟩
    rfl

theorem extractLsb'_one {w : Nat} (x : BitVec w) (i : Nat) : x.extractLsb' i 1 = BitVec.ofBool (x.getLsbD i) := by
  apply BitVec.eq_of_getLsbD_eq
  intro j hj
  obtain rfl : j = 0 := by omega
  simp

/-- A field of two bits holds its two bits. -/
theorem extractLsb'_two {w : Nat} (x : BitVec w) (i : Nat) :
    x.extractLsb' i 2 = BitVec.ofBool (x.getLsbD (i + 1)) ++ BitVec.ofBool (x.getLsbD i) :=
  (extractLsb'_eq_append_iff x _ _).2 ⟨extractLsb'_one x (i + 1), extractLsb'_one x i⟩

/-! ### The rows of a frame-control word, by its fields (R102) -/

/-- The mask of the `type` rows compares bits 3..2 (R103). -/
theorem typeRow_eq (fc : BitVec 16) :
    typeRow fc = if fc.extractLsb' 2 2 = 0 then .mgmt else if fc.extractLsb' 2 2 = 1 then .ctrl
      else if fc.extractLsb' 2 2 = 2 then .data else .rsvd := by
  unfold typeRow
  rw [rowHit_field fc 0x000C 0x0000 2 2 (by decide) (by decide), rowHit_field fc 0x000C 0x0004 2 2 (by decide) (by decide),
    rowHit_field fc 0x000C 0x0008 2 2 (by decide) (by decide)]
  simp only [decide_eq_true_eq]
  rfl

/-- The mask of the `pspoll` row compares type and subtype, which are neighbours (R103). -/
theorem pspollHit_iff (fc : BitVec 16) :
    pspollHit fc = true ↔ fc.extractLsb' 2 2 = 1 ∧ fc.extractLsb' 4 4 = 0b1010 := by
  unfold pspollHit
  rw [rowHit_field fc 0x00FC 0x00A4 2 6 (by decide) (by decide), decide_eq_true_eq, and_comm]
  exact extractLsb'_eq_append_iff fc (0b1010 : BitVec 4) (1 : BitVec 2)

/-- The mask of the `hdrlen` and `xlt-addr` rows compares FromDS and ToDS, bits 9 and 8 (R110, R111). -/
theorem rowHit_ds (fc pat : BitVec 16) (hp : ∀ i, i < 16 → (0x0300 : BitVec 16).getLsbD i = false → pat.getLsbD i = false) :
    rowHit fc 0x0300 pat
      = decide (BitVec.ofBool (fc.getLsbD 9) ++ BitVec.ofBool (fc.getLsbD 8) = pat.extractLsb' 8 2) := by
  rw [rowHit_field fc 0x0300 pat 8 2 (by decide) hp, extractLsb'_two fc 8]

theorem hdrRow_eq (fc : BitVec 16) : hdrRow fc = if fc.getLsbD 8 = true ∧ fc.getLsbD 9 = true then .a4 else .a3 := by
  unfold hdrRow
  rw [rowHit_ds fc 0x0300 (by decide)]
  cases fc.getLsbD 8 <;> cases fc.getLsbD 9 <;> rfl

theorem xltAddrRow_eq (fc : BitVec 16) :
    xltAddrRow fc = if fc.getLsbD 8 then (if fc.getLsbD 9 then .wds else .toap)
      else (if fc.getLsbD 9 then .fromap else .ibss) := by
  unfold xltAddrRow
  rw [rowHit_ds fc 0x0000 (by decide), rowHit_ds fc 0x0200 (by decide), rowHit_ds fc 0x0100 (by decide)]
  cases fc.getLsbD 8 <;> cases fc.getLsbD 9 <;> rfl

/-! ### The rows of a SNAP8 word, by its fields (R112) -/

/-- The mask of the header rows compares the six bytes of the header. -/
theorem rowHit_snapHeader (w : BitVec 64) (hdr : BitVec 48) :
    rowHit w 0xFFFFFFFFFFFF0000 (hdr ++ (0 : BitVec 16)) = decide (w.extractLsb' 16 48 = hdr) := by
  rw [rowHit_field w 0xFFFFFFFFFFFF0000 _ 16 48 (by decide), BitVec.extractLsb'_append_eq_left]
  intro i hi outside
  have inside : ∀ j, j < 64 → 16 ≤ j → (0xFFFFFFFFFFFF0000 : BitVec 64).getLsbD j = true := by decide
  have low : i < 16 := Nat.lt_of_not_le fun h => Bool.false_ne_true (outside.symm.trans (inside i hi h))
  rw [BitVec.getLsbD_append, if_pos low]
  exact BitVec.getLsbD_zero

/-- The full mask compares the header and the type. -/
theorem rowHit_snapWord (w : BitVec 64) (hdr : BitVec 48) (type : BitVec 16) :
    rowHit w 0xFFFFFFFFFFFFFFFF (hdr ++ type) = decide (w.extractLsb' 16 48 = hdr ∧ w.extractLsb' 0 16 = type) := by
  have whole : w.extractLsb' 0 64 = w := BitVec.extractLsb'_eq_self
  unfold rowHit
  rw [show (0xFFFFFFFFFFFFFFFF : BitVec 64) = BitVec.allOnes 64 from rfl, BitVec.and_allOnes, beq_eq_decide, decide_eq_decide]
  conv_lhs => rw [← whole]
  exact extractLsb'_eq_append_iff w hdr type

/-- RFC 1042 with one of the two long types and the bridge-tunnel header select XLT.LEN, any other RFC 1042 word XLT.PASS (R288). -/
theorem snapRow_eq (stt : BitVec 16) (w : BitVec 64) :
    snapRow stt w = if w.extractLsb' 16 48 = 0xAAAA03000000 then
        (if w.extractLsb' 0 16 = 0x8137 ∨ w.extractLsb' 0 16 = stt then .len else .pass)
      else if w.extractLsb' 16 48 = 0xAAAA030000F8 then .len
      else .raw := by
  have bridge := rowHit_snapHeader w 0xAAAA030000F8
  have rfc1042 := rowHit_snapHeader w 0xAAAA03000000
  have ipx := rowHit_snapWord w 0xAAAA03000000 0x8137
  have named := rowHit_snapWord w 0xAAAA03000000 stt
  unfold snapRow
  rw [show (0xAAAA030000F80000 : BitVec 64) = (0xAAAA030000F8 : BitVec 48) ++ (0 : BitVec 16) from rfl, bridge,
    show (0xAAAA030000000000 : BitVec 64) = (0xAAAA03000000 : BitVec 48) ++ (0 : BitVec 16) from rfl, rfc1042,
    show (0xAAAA030000008137 : BitVec 64) = (0xAAAA03000000 : BitVec 48) ++ (0x8137 : BitVec 16) from rfl, ipx, named]
  simp only [Bool.or_eq_true, decide_eq_true_eq]
  generalize w.extractLsb' 16 48 = hdr
  by_cases h : hdr = 0xAAAA03000000
  · subst h
    simp
  · simp only [h, false_and, or_false, if_false]

/-! ### The host's command codes (R122) -/

/-- A code outside 0x01 to 0x0A names no command, whatever bytes follow it. -/
theorem decode_hostcmd_unknown (c : Byte) (ops : List Byte) (h : c.toNat < 1 ∨ 10 < c.toNat) :
    decode (.hostcmd (c :: ops)) = .error .unknownHostCode := by
  simp only [decode, decodeHost]
  split
  case h_11 => rfl
  all_goals omega

end Sys2Proof

namespace Sys2Proof.Machine

/-- A transaction that decodes to no instruction leaves nothing but the answer that it is refused (R122, log 8). -/
theorem hostMove_of_error {s : State} {bytes : List Byte} {e : DecodeError} (hd : decode (.hostcmd bytes) = .error e) :
    hostMove bytes s = .next (s.withReply .refused) := by
  simp only [hostMove, hd]

end Sys2Proof.Machine

namespace Sys2Proof.Proofs
open Sys2Proof.Machine

/-- Settles O1: a row without operands decodes by evaluation; a host operation comes back through its fields, which hold every
well-formed operand. -/
theorem decodeEncodeAgree : Obligations.DecodeEncodeAgree := by
  intro i wf
  cases i
  case hFrameIn b n m =>
    have hn : n < 2 ^ 32 := of_decide_eq_true wf
    rw [decode_encode_hFrameIn, ofLeBytes_leBytes_four hn]
  case hCfgWrite reg v =>
    simp only [Instr.wellFormed, Bool.and_eq_true, decide_eq_true_eq] at wf
    obtain ⟨hreg, hv⟩ := wf
    rw [decode_encode_hCfgWrite, toNat_byteField hreg, ofLeBytes_leBytes_eight hv]
  case hKeySet sc a ki su m lo hi =>
    simp only [Instr.wellFormed, Bool.and_eq_true, decide_eq_true_eq] at wf
    obtain ⟨⟨⟨⟨hsc, hki⟩, hsu⟩, hlo⟩, hhi⟩ := wf
    rw [decode_encode_hKeySet, toNat_byteField hsc, toNat_byteField hki, toNat_byteField hsu, ofLeBytes_leBytes_four hlo,
      ofLeBytes_leBytes_eight hhi]
  case hKeyDel sc a ki =>
    simp only [Instr.wellFormed, Bool.and_eq_true, decide_eq_true_eq] at wf
    obtain ⟨hsc, hki⟩ := wf
    rw [decode_encode_hKeyDel, toNat_byteField hsc, toNat_byteField hki]
  case hStaSet i a v =>
    simp only [Instr.wellFormed, Bool.and_eq_true, decide_eq_true_eq] at wf
    obtain ⟨hi, hv⟩ := wf
    rw [decode_encode_hStaSet, ofLeBytes_leBytes_four hi, toNat_byteField hv]
  case hStaDel i =>
    have hi : i < 2 ^ 32 := of_decide_eq_true wf
    rw [decode_encode_hStaDel, ofLeBytes_leBytes_four hi]
  case hPsPop i =>
    have hi : i < 2 ^ 32 := of_decide_eq_true wf
    rw [decode_encode_hPsPop, ofLeBytes_leBytes_four hi]
  case hStatRead n =>
    have hn : n < 2 ^ 8 := of_decide_eq_true wf
    rw [decode_encode_hStatRead, toNat_byteField hn]
  all_goals rfl

/-- Settles O3, group by group, by what the group's mask compares. -/
theorem fc16RowsByFields : Obligations.Fc16RowsByFields := by
  intro fc
  refine ⟨?_, ?_, ?_, ?_⟩
  · simp only [decode, decodeFc16, typeRow_eq]
    split_ifs <;> rfl
  · simp only [decode, decodeFc16, pspollHit_iff]
  · simp only [decode, decodeFc16, hdrRow_eq]
    split_ifs <;> rfl
  · simp only [decode, decodeFc16, xltAddrRow_eq]
    cases fc.getLsbD 8 <;> cases fc.getLsbD 9 <;> rfl

/-- Settles O4, by the header and the type of the word. -/
theorem snap8RowsByFields : Obligations.Snap8RowsByFields := by
  intro stt w
  simp only [decode, snapRow_eq]
  split_ifs <;> rfl

/-- Settles O5: the code byte alone makes the transaction undecodable, and such a transaction is refused. -/
theorem unknownHostCodeRefused : Obligations.UnknownHostCodeRefused := by
  intro s c ops rest port code
  rw [step_of_command port, hostMove_of_error (decode_hostcmd_unknown c ops code)]
  rfl

/-- Settles O2: each word is evaluated. -/
theorem writtenWordsDecode : Obligations.WrittenWordsDecode :=
  ⟨rfl, rfl, rfl, rfl, rfl, rfl, rfl, rfl, rfl, rfl, rfl⟩

end Sys2Proof.Proofs
end

section
/-! PROOFS. The rows of STA3 and PSW3 and what they do, and the deciphering of TKIP and CCMP (R108, R109, R121, R166, R167, R169
to R173, R222 to R228). -/
namespace Sys2Proof.Machine

variable {s : State}

/-! ### The words of STA3 and PSW3 (R121) -/

/-- The eight words `{found, STATE}`, by their fields (R162, R166, R167). -/
theorem sta3Row_eq (w : BitVec 3) :
    sta3Row w = if w.getLsbD 2 = false ∨ w.extractLsb' 0 2 = 0 then .deauth
      else if w.extractLsb' 0 2 = 1 then .disassoc
      else if w.extractLsb' 0 2 = 2 then .passOn
      else .reserved := by
  revert w
  decide

/-- The eight words `{IS_PSPOLL, PM, PS}` (R162, R169 to R173). -/
theorem psw3Row_ofBool (poll pm ps : Bool) :
    psw3Row (BitVec.ofBool poll ++ BitVec.ofBool pm ++ BitVec.ofBool ps)
      = if poll then .pspoll else if pm then .psset else if ps then .pswake else .psnop := by
  cases poll <;> cases pm <;> cases ps <;> rfl

/-! ### The rows that refuse a class (R166, R167) -/

section Refusal
variable {a : Addr} (hta : s.ctx.ta = some a)
include hta

theorem finish_apctlDeauth :
    finish opApctlDeauth s = .next (dropPath .class2 { s with out := s.out ++ [.actionDeauth a 6] }) := by
  apply finish_of_raise
  simp [opApctlDeauth, EStateM.run_bind, hta]

theorem finish_apctlDisassoc :
    finish opApctlDisassoc s = .next (dropPath .class3 { s with out := s.out ++ [.actionDisassoc a 7] }) := by
  apply finish_of_raise
  simp [opApctlDisassoc, EStateM.run_bind, hta]

end Refusal

/-! ### The rows of the power-save state (R169, R171, R172) -/

section PowerSave
variable {i : Nat} {e : StaEntry} (hsta : s.ctx.sta = some (some i)) (he : s.st[i]? = some e)
include hsta he

theorem finish_apctlPspoll :
    finish opApctlPspoll s
      = .next { s with st := s.st.set i { e with ready := true }, out := s.out ++ [.psDeliverOne i] } := by
  apply finish_of_ok
  simp [opApctlPspoll, EStateM.run_bind, hsta, modifySta_some he, modify_eq_set he]

theorem finish_apctlPswake :
    finish opApctlPswake s
      = .next { s with st := s.st.set i { e with ps := false, ready := false, q := [] },
                       out := s.out ++ [.psFlush i e.q] } := by
  apply finish_of_ok
  simp [opApctlPswake, EStateM.run_bind, hsta, he, modifySta_some he, modify_eq_set he]

/-- Virtual station 0 is in the table because the transmitter is, so it can be told to doze (R172). -/
theorem finish_apctlPsset :
    finish opApctlPsset s
      = .next { s with st := (s.st.set i { e with ps := true }).modify 0 fun e0 => { e0 with ps := true } } := by
  obtain ⟨hi, -⟩ := List.getElem?_eq_some_iff.1 he
  have h0 := List.getElem?_eq_getElem (l := s.st.set i { e with ps := true }) (i := 0) (by rw [List.length_set]; omega)
  apply finish_of_ok
  simp [opApctlPsset, EStateM.run_bind, hsta, modifySta_some he, modify_eq_set he,
    modifySta_some (s := { s with st := s.st.set i { e with ps := true } }) h0]

end PowerSave

/-! ### What the cipher operations read (R222, R228) -/

theorem readHdrlen_some {h : BitVec 5} (hh : s.ctx.hdrlen = some h) : readHdrlen.run s = .ok h.toNat s := by
  simp [readHdrlen, hh]

/-- The ICV test of a string that holds the data and its four bytes of ICV and no more (R219). -/
theorem icvOk_eq {p : List Byte} {d : Nat} (h : p.length = d + 4) :
    icvOk p d = (Config.crc32 (p.take d) == le32 (p.drop d)) := by
  unfold icvOk
  rw [List.take_of_length_le (l := p.drop d) (by rw [List.length_drop]; omega)]

/-- The live bytes before the end of a write: those before the write, and the first bytes written (R75). -/
theorem Frame.slice_write_front {f : Frame} (hw : f.head + f.len ≤ f.buf.length) {off n : Nat} {v : List Byte}
    (h : off + v.length ≤ f.len) (hn : n ≤ v.length) :
    (f.write off v).slice 0 (off + n) = f.live.take off ++ v.take n := by
  have before : (f.live.take off).length = off := by
    rw [List.length_take, Frame.live_length hw]
    omega
  rw [Frame.slice_eq_live _ (by rw [Frame.write_len]; omega), List.drop_zero, Frame.live_write hw h]
  unfold overlay
  rw [List.append_assoc, List.take_append, before, List.take_of_length_le (by omega), Nat.add_sub_cancel_left,
    List.take_append_of_le_length hn]

/-- A step through the first part of an operation, for chains that read like the operation. -/
theorem finish_bind_eq {α : Type} {m : Act α} {g : α → Act Unit} {t : State} {x : α} {o : Host.Outcome State Fault Refusal}
    (first : m.run s = .ok x t) (rest : finish (g x) t = o) : finish (m >>= g) s = o :=
  (finish_bind_of_ok first).trans rest

/-! ### DEC.TKIP (R222, R223, R224, R226) -/

/-- The tests of DEC.TKIP on the deciphered frame: the ICV before the Michael value (R223, R226). -/
theorem finish_tkipTests {f : Frame} (hf : s.frm = some f) (hw : f.head + f.len ≤ f.buf.length) {p : List Byte} {d n : Nat}
    (hp : p.length = d + 4) (hn : n ≤ f.len) (tk : List Byte) :
    finish (do
        require (icvOk p d) .integrityTkip
        let m ← memRead 0 n
        require (Config.michaelOk tk m) .integrityTkipMic
        setDecryptOk true) s
      = .next (if Config.crc32 (p.take d) ≠ le32 (p.drop d) then dropPath .integrityTkip s
          else if Config.michaelOk tk (f.slice 0 n) = true then { s with ctx := { s.ctx with decryptOk := some true } }
          else dropPath .integrityTkipMic s) := by
  rw [icvOk_eq hp]
  by_cases icv : Config.crc32 (p.take d) = le32 (p.drop d)
  · rw [if_neg (not_not_intro icv)]
    refine finish_bind_eq (require_true (beq_iff_eq.2 icv) _ _) <|
      finish_bind_eq (memRead_of_fits hf hw (by omega)) ?_
    by_cases mic : Config.michaelOk tk (f.slice 0 n) = true
    · rw [if_pos mic]
      exact finish_bind_eq (require_true mic _ _) rfl
    · rw [if_neg mic]
      exact finish_of_raise (run_bind_of_error (require_false (Bool.eq_false_iff.2 mic) _ _))
  · rw [if_pos icv]
    exact finish_of_raise (run_bind_of_error (require_false (beq_eq_false_iff_ne.2 icv) _ _))

section Cipher
variable {f : Frame} {h : BitVec 5} {iv : Iv4} {kh : Nat} {k : KeyRec}

/-- Without an extended IV nothing is deciphered (R224). -/
theorem finish_decTkip_of_plainIv (hext : s.ctx.extIv = some false) :
    finish opDecTkip s = .next (dropPath .integrityTkip s) :=
  finish_bind_eq (readCtx_some hext) rfl

theorem finish_decCcmp_of_plainIv (hext : s.ctx.extIv = some false) :
    finish opDecCcmp s = .next (dropPath .integrityCcmp s) :=
  finish_bind_eq (readCtx_some hext) rfl

variable (hext : s.ctx.extIv = some true) (hh : s.ctx.hdrlen = some h) (hf : s.frm = some f)
include hext hh hf

theorem finish_decTkip_of_short (short : f.len < h.toNat + 8 + 8 + 4) :
    finish opDecTkip s = .next (dropPath .malformedTruncated s) := by
  refine finish_bind_eq (readCtx_some hext) <| finish_bind_eq (require_true rfl _ _) <|
    finish_bind_eq (readHdrlen_some hh) <| finish_bind_eq (frmLen_some hf) ?_
  exact finish_of_raise (run_bind_of_error (require_false (decide_eq_false (by omega)) _ _))

theorem finish_decCcmp_of_short (short : f.len < h.toNat + 8 + 8) :
    finish opDecCcmp s = .next (dropPath .malformedTruncated s) := by
  refine finish_bind_eq (readCtx_some hext) <| finish_bind_eq (require_true rfl _ _) <|
    finish_bind_eq (readHdrlen_some hh) <| finish_bind_eq (frmLen_some hf) ?_
  exact finish_of_raise (run_bind_of_error (require_false (decide_eq_false (by omega)) _ _))

variable (hw : f.head + f.len ≤ f.buf.length) (hiv : s.ctx.iv = some iv) (hkey : s.ctx.key = some kh)
  (hk : s.ks[kh]? = some k)
include hw hiv hkey hk

/-- DEC.TKIP of a frame that holds the extended IV, a Michael value and an ICV: the region behind the IV is deciphered and written
back, and the tests see the frame with its plaintext (R222, R223, R226). -/
theorem finish_decTkip_of_fits {ta : Addr} {d : Nat} {p : List Byte} {t : State} (hta : s.ctx.ta = some ta)
    (fits : h.toNat + 8 + 8 + 4 ≤ f.len) (hd : d = f.len - h.toNat - 8 - 4)
    (hp : p = (Config.rc4 (Config.tkipMix k.material ta (tkipTscLo iv) (le32 (f.slice (h.toNat + 4) 4))) (d + 4)
      (toVec (d + 4) (f.live.drop (h.toNat + 8)))).toList)
    (ht : t = { s with frm := some (f.write (h.toNat + 8) p),
                       ctx := { s.ctx with tscLo := some (tkipTscLo iv), tscHi := some (le32 (f.slice (h.toNat + 4) 4)) } }) :
    finish opDecTkip s
      = .next (if Config.crc32 (p.take d) ≠ le32 (p.drop d) then dropPath .integrityTkip t
          else if Config.michaelOk k.material (f.live.take (h.toNat + 8) ++ p.take d) = true then
            { t with ctx := { t.ctx with decryptOk := some true } }
          else dropPath .integrityTkipMic t) := by
  have plength : p.length = d + 4 := by rw [hp, Vector.length_toList]
  have inside : h.toNat + 8 + p.length ≤ f.len := by omega
  have plain : (f.write (h.toNat + 8) p).slice 0 (f.len - 4) = f.live.take (h.toNat + 8) ++ p.take d := by
    rw [← Frame.slice_write_front hw inside (by omega)]
    congr 1
    omega
  have region : f.slice (h.toNat + 8) (d + 4) = f.live.drop (h.toNat + 8) := Frame.slice_tail hw (by omega)
  rw [← region] at hp
  rw [← plain]
  subst hd hp ht
  exact finish_bind_eq (readCtx_some hext) <| finish_bind_eq (require_true rfl _ _) <|
    finish_bind_eq (readHdrlen_some hh) <| finish_bind_eq (frmLen_some hf) <|
    finish_bind_eq (require_true (decide_eq_true fits) _ _) <|
    finish_bind_eq (memRead_of_fits hf hw (by omega)) <| finish_bind_eq (readCtx_some hiv) <|
    finish_bind_eq (writeCtx_apply _ _) <| finish_bind_eq (theKey_some hkey hk) <| finish_bind_eq (readCtx_some hta) <|
    finish_bind_eq (memRead_of_fits hf hw (by omega)) <| finish_bind_eq (memWrite_of_fits hf hw inside) <|
    finish_tkipTests rfl (wf_some.1 (wf_write (wf_some.2 hw) (by omega))) plength (by simp) k.material

/-- DEC.CCMP of a frame that holds the extended IV and a MIC: the plaintext is written where the primitive authenticates, and only
there (R228). -/
theorem finish_decCcmp_of_fits {d : Nat} {r : Vector Byte d × Bool} {t : State}
    (fits : h.toNat + 8 + 8 ≤ f.len) (hd : d = f.len - h.toNat - 8 - 8)
    (hr : r = Config.ccmpOpen k.material (ccmpPnLo iv) (le32 (f.slice (h.toNat + 4) 4)) (f.live.take h.toNat) d
      (toVec (d + 8) (f.live.drop (h.toNat + 8))))
    (ht : t = { s with ctx := { s.ctx with tscLo := some (ccmpPnLo iv), tscHi := some (le32 (f.slice (h.toNat + 4) 4)),
                                           decryptOk := some r.2 } }) :
    finish opDecCcmp s
      = .next (if r.2 = true then { t with frm := some (f.write (h.toNat + 8) r.1.toList) }
          else dropPath .integrityCcmp t) := by
  have header : f.slice 0 h.toNat = f.live.take h.toNat := Frame.slice_eq_live f (by omega)
  have body : f.slice (h.toNat + 8) (d + 8) = f.live.drop (h.toNat + 8) := Frame.slice_tail hw (by omega)
  rw [← header, ← body] at hr
  subst hd hr ht
  refine finish_bind_eq (readCtx_some hext) <| finish_bind_eq (require_true rfl _ _) <|
    finish_bind_eq (readHdrlen_some hh) <| finish_bind_eq (frmLen_some hf) <|
    finish_bind_eq (require_true (decide_eq_true fits) _ _) <|
    finish_bind_eq (memRead_of_fits hf hw (by omega)) <| finish_bind_eq (readCtx_some hiv) <|
    finish_bind_eq (writeCtx_apply _ _) <| finish_bind_eq (memRead_of_fits hf hw (by omega)) <|
    finish_bind_eq (memRead_of_fits hf hw (by omega)) <| finish_bind_eq (theKey_some hkey hk) <|
    finish_bind_eq (writeCtx_apply _ _) ?_
  split_ifs with auth
  · exact finish_bind_eq (require_true auth _ _) (finish_of_ok (memWrite_of_fits hf hw (by rw [Vector.length_toList]; omega)))
  · exact finish_of_raise (run_bind_of_error (require_false (Bool.eq_false_iff.2 auth) _ _))

end Cipher
end Sys2Proof.Machine

namespace Sys2Proof.Proofs
open Sys2Proof.Machine

/-- Settles O28: the words by their fields, and each row's event and drop. -/
theorem apctlClassRows : Obligations.ApctlClassRows := by
  refine ⟨fun w => ?_, fun s a hta => ⟨finish_apctlDeauth hta, finish_apctlDisassoc hta⟩⟩
  simp only [decode, sta3Row_eq]
  split_ifs <;> rfl

/-- Settles O29: the words by their fields, and what each row writes of the transmitter's entry. -/
theorem apctlPowerRows : Obligations.ApctlPowerRows := by
  refine ⟨fun poll pm ps => ?_,
    fun s i e hsta he => ⟨finish_apctlPspoll hsta he, finish_apctlPswake hsta he, finish_apctlPsset hsta he⟩, fun _ => rfl⟩
  simp only [decode, psw3Row_ofBool]
  split_ifs <;> rfl

/-- Settles O39: no extended IV, a short frame, or the deciphered frame under its two tests. -/
theorem decTkip : Obligations.DecTkip := by
  intro s f h iv kh k ta ext L lo hi d p t hf form hh hiv hkey hk hta hext hL hlo hhi hd hp ht
  rw [hf] at form
  have hw := wf_some.1 form
  subst hL
  change finish opDecTkip s = _
  cases ext with
  | false =>
    rw [if_pos rfl]
    exact finish_decTkip_of_plainIv hext
  | true =>
    rw [if_neg (by decide)]
    by_cases short : f.len < h.toNat + 8 + 8 + 4
    · rw [if_pos short]
      exact finish_decTkip_of_short hext hh hf short
    · rw [if_neg short]
      have hext4 : hi = le32 (f.slice (h.toNat + 4) 4) := hhi.trans (le32_slice (by omega)).symm
      subst hlo hext4
      exact finish_decTkip_of_fits hext hh hf hw hiv hkey hk hta (by omega) hd hp ht

/-- Settles O40: no extended IV, a short frame, or what the primitive answers. -/
theorem decCcmp : Obligations.DecCcmp := by
  intro s f h iv kh k ext L lo hi d r t hf form hh hiv hkey hk hext hL hlo hhi hd hr ht
  rw [hf] at form
  have hw := wf_some.1 form
  subst hL
  change finish opDecCcmp s = _
  cases ext with
  | false =>
    rw [if_pos rfl]
    exact finish_decCcmp_of_plainIv hext
  | true =>
    rw [if_neg (by decide)]
    by_cases short : f.len < h.toNat + 8 + 8
    · rw [if_pos short]
      exact finish_decCcmp_of_short hext hh hf short
    · rw [if_neg short]
      have hext4 : hi = le32 (f.slice (h.toNat + 4) 4) := hhi.trans (le32_slice (by omega)).symm
      subst hlo hext4
      exact finish_decCcmp_of_fits hext hh hf hw hiv hkey hk (by omega) hd hr ht

end Sys2Proof.Proofs
end

section
/-! PROOFS. The length check and the classifier: the result rows, every register of a frame long enough for them, and that the
frame alone decides what is written (R141, R143 to R152). -/
namespace Sys2Proof.Machine

variable {s : State}

/-! ### LENCHK (R141) -/

section Interval
variable {lo hi n : Nat} {r : Reason}

/-- A closed interval, tested from below and from above. -/
theorem require_of_within (low : lo ≤ n) (high : n ≤ hi) :
    (require (decide (lo ≤ n) && decide (n ≤ hi)) r).run s = .ok () s :=
  require_true (by simp [low, high]) _ _

theorem require_of_outside (h : n < lo ∨ hi < n) :
    (require (decide (lo ≤ n) && decide (n ≤ hi)) r).run s = .error (.raise r) s :=
  require_false (by simpa [imp_iff_not_or] using h) _ _

end Interval

section Lengths
variable {w : BitVec 12} {f : Frame} (hw : s.ctx.wlen = some w)
include hw

theorem finish_lenchk_of_wrapped (outside : w.toNat < 32 ∨ 2364 < w.toNat) :
    finish opLenchk s = .next (dropPath .malformedLength s) :=
  finish_bind_eq (readCtx_some hw) <| finish_of_raise <| run_bind_of_error <| require_of_outside outside

variable (low : 32 ≤ w.toNat) (high : w.toNat ≤ 2364) (hf : s.frm = some f)
include low high hf

theorem finish_lenchk_of_logical (outside : f.len < 14 ∨ 2346 < f.len) :
    finish opLenchk s = .next (dropPath .malformedLength s) :=
  finish_bind_eq (readCtx_some hw) <| finish_bind_eq (require_of_within low high) <| finish_bind_eq (frmLen_some hf) <|
    finish_of_raise <| run_bind_of_error <| require_of_outside outside

theorem finish_lenchk_of_fits (logicalLow : 14 ≤ f.len) (logicalHigh : f.len ≤ 2346) :
    finish opLenchk s = .next { s with stage := .lengthValidated } :=
  finish_bind_eq (readCtx_some hw) <| finish_bind_eq (require_of_within low high) <| finish_bind_eq (frmLen_some hf) <|
    finish_bind_eq (require_of_within logicalLow logicalHigh) rfl

end Lengths

/-! ### What CLASSIFY computes from the frame-control word (R103, R110, R145, R147, R148, R151) -/

section FrameControl
variable (fc : BitVec 16)

theorem pspollHit_eq : pspollHit fc = decide (fc &&& 0x00FC = 0x00A4) := beq_eq_decide _ _

theorem hdrLenOf_hdrRow : hdrLenOf (hdrRow fc) = if (fc.getLsbD 8 && fc.getLsbD 9) = true then 30 else 24 := by
  simp only [hdrRow_eq, Bool.and_eq_true]
  split_ifs <;> rfl

theorem headerLength_eq : headerLength fc = if (fc.getLsbD 8 && fc.getLsbD 9) = true then 30 else 24 := by
  rw [headerLength, hdrLenOf_hdrRow]
  split_ifs <;> rfl

theorem typeRow_eq_rsvd_iff : typeRow fc = .rsvd ↔ fc.extractLsb' 2 2 = 3 := by
  rw [typeRow_eq]
  generalize fc.extractLsb' 2 2 = field
  revert field
  decide

theorem typeRow_eq_data_iff : typeRow fc = .data ↔ fc.extractLsb' 2 2 = 2 := by
  rw [typeRow_eq]
  generalize fc.extractLsb' 2 2 = field
  revert field
  decide

/-- The type that is left of those not reserved is the data frame's (R103, R150). -/
theorem typeRow_of_not_rsvd (h : fc.extractLsb' 2 2 ≠ 3) :
    typeRow fc = if fc.extractLsb' 2 2 = 0 then .mgmt else if fc.extractLsb' 2 2 = 1 then .ctrl else .data := by
  rw [typeRow_eq]
  generalize fc.extractLsb' 2 2 = field at h ⊢
  revert field
  decide

/-- A frame too short for a fragment number is a fragment by the more-fragments bit alone (R145). -/
theorem isFragment_of_length (l : Nat) (n : BitVec 4) :
    isFragment fc (if 24 ≤ l then n else 0) = (fc.getLsbD 10 || (decide (24 ≤ l) && decide (n ≠ 0))) := by
  unfold isFragment fcMoreFrag
  by_cases h : 24 ≤ l
  · simp [h, bne, beq_eq_decide]
  · simp [h]

/-- The fragment number stands in the low bits of the first byte of Sequence Control (R104). -/
theorem scFragment_le16 (b : List Byte) : scFragment (le16 b) = (byteAt b 0).extractLsb' 0 4 :=
  BitVec.extractLsb'_append_eq_of_add_le (by omega)

end FrameControl

/-! ### The writes of CLASSIFY -/

/-- What CLASSIFY has written so far; a register or stage not yet written is `none`. -/
structure ClassifyWrites where
  fc : Option (BitVec 16) := none
  tag : Option FrameType := none
  isWep : Option Bool := none
  isPspoll : Option Bool := none
  hdrlen : Option (BitVec 5) := none
  isMcast : Option Bool := none
  isFrag : Option Bool := none
  ta : Option Addr := none
  stage : Option Stage := none

/-- The state with these writes made. -/
def State.written (s : State) (w : ClassifyWrites) : State :=
  { s with
    stage := w.stage.getD s.stage
    ctx := { s.ctx with
      fc := w.fc.or s.ctx.fc
      tag := w.tag.or s.ctx.tag
      isWep := w.isWep.or s.ctx.isWep
      isPspoll := w.isPspoll.or s.ctx.isPspoll
      hdrlen := w.hdrlen.or s.ctx.hdrlen
      isMcast := w.isMcast.or s.ctx.isMcast
      isFrag := w.isFrag.or s.ctx.isFrag
      ta := w.ta.or s.ctx.ta } }

/-- A write of the operation adds to the writes made. -/
theorem writeCtx_written {w : ClassifyWrites} {g : Ctx → Ctx} (k : ClassifyWrites → ClassifyWrites)
    (h : { s.written w with ctx := g (s.written w).ctx } = s.written (k w)) :
    (writeCtx g).run (s.written w) = .ok () (s.written (k w)) := congrArg _ h

/-- Making the same writes again changes nothing. -/
theorem written_written (w : ClassifyWrites) : (s.written w).written w = s.written w := by
  have stage : w.stage.getD (w.stage.getD s.stage) = w.stage.getD s.stage := by cases w.stage <;> rfl
  simp only [State.written, stage, ← Option.or_assoc, Option.or_self]

/-! ### The parts of CLASSIFY that complete (R143 to R149) -/

section Parts
variable {w : ClassifyWrites} {fc : BitVec 16} {f : Frame}

/-- The row of a type that is not reserved writes its tag (R143). -/
theorem runType_of_not_rsvd (h : fc.extractLsb' 2 2 ≠ 3) :
    (runType (typeRow fc)).run (s.written w)
      = .ok () (s.written { w with
          tag := some (if fc.extractLsb' 2 2 = 0 then .mgmt else if fc.extractLsb' 2 2 = 1 then .ctrl else .data) }) := by
  rw [typeRow_of_not_rsvd fc h]
  split_ifs <;> rfl

/-- The flag of the `pspoll` group is written either way (R143, R147). -/
theorem runPspoll_run :
    (if pspollHit fc then opClsPspoll else notPspoll : Act Unit).run (s.written w)
      = .ok () (s.written { w with isPspoll := some (decide (fc &&& 0x00FC = 0x00A4)) }) := by
  rw [← pspollHit_eq]
  cases pspollHit fc <;> rfl

theorem runHdr_run :
    (runHdr (hdrRow fc)).run (s.written w)
      = .ok () (s.written { w with hdrlen := some (if (fc.getLsbD 8 && fc.getLsbD 9) = true then 30 else 24) }) := by
  rw [← hdrLenOf_hdrRow]
  cases hdrRow fc <;> rfl

theorem requireHeader_of_short {l : Nat} (data : fc.extractLsb' 2 2 = 2)
    (short : l < if (fc.getLsbD 8 && fc.getLsbD 9) = true then 30 else 24) :
    (requireHeader (typeRow fc) fc l).run s = .error (.raise .malformedTruncated) s := by
  rw [← headerLength_eq] at short
  exact require_false (by simp [(typeRow_eq_data_iff fc).2 data, short]) _ _

theorem requireHeader_of_fits {l : Nat}
    (h : ¬ (fc.extractLsb' 2 2 = 2 ∧ l < if (fc.getLsbD 8 && fc.getLsbD 9) = true then 30 else 24)) :
    (requireHeader (typeRow fc) fc l).run s = .ok () s := by
  rw [← headerLength_eq, ← typeRow_eq_data_iff] at h
  exact require_true (by simpa [imp_iff_not_or] using h) _ _

variable (hf : s.frm = some f) (hw : f.head + f.len ≤ f.buf.length)
include hf hw

theorem readFragno_run :
    (readFragno f.len).run s = .ok (if 24 ≤ f.len then (byteAt f.live 22).extractLsb' 0 4 else 0) s := by
  unfold readFragno
  split_ifs with h
  · rw [run_bind_of_ok (memRead_of_fits hf hw h), EStateM.run_pure, scFragment_le16, byteAt_slice f h (by omega)]
    rfl
  · rfl

theorem captureTa_run :
    (captureTa f.len).run (s.written w)
      = .ok () (s.written { w with
          ta := if 16 ≤ f.len then
              some ⟨byteAt f.live 10, byteAt f.live 11, byteAt f.live 12, byteAt f.live 13, byteAt f.live 14, byteAt f.live 15⟩
            else w.ta }) := by
  unfold captureTa
  split_ifs with h
  · exact run_bind_of_ok (readAddr_of_fits (s := s.written w) (off := offAddr2) hf hw h)
  · rfl

end Parts

/-! ### CLASSIFY of a frame that holds Addr1 (R143 to R151) -/

section Classify
variable {fc : BitVec 16} {f : Frame} (hf : s.frm = some f) (hw : f.head + f.len ≤ f.buf.length)
  (hfc : fc = byteAt f.live 1 ++ byteAt f.live 0)

/-- The registers of a frame of a type that is not reserved, from its frame-control word and its live bytes. -/
def classifyRegisters (fc : BitVec 16) (f : Frame) : ClassifyWrites where
  fc := some fc
  tag := some (if fc.extractLsb' 2 2 = 0 then .mgmt else if fc.extractLsb' 2 2 = 1 then .ctrl else .data)
  isWep := some (fc.getLsbD 14)
  isPspoll := some (decide (fc &&& 0x00FC = 0x00A4))
  hdrlen := some (if (fc.getLsbD 8 && fc.getLsbD 9) = true then 30 else 24)
  isMcast := some ((byteAt f.live 4).getLsbD 0)
  isFrag := some (fc.getLsbD 10 || (decide (24 ≤ f.len) && decide ((byteAt f.live 22).extractLsb' 0 4 ≠ 0)))
  ta :=
    if 16 ≤ f.len then
      some ⟨byteAt f.live 10, byteAt f.live 11, byteAt f.live 12, byteAt f.live 13, byteAt f.live 14, byteAt f.live 15⟩
    else none

include hf hw hfc

/-- A reserved type is dropped with nothing but CTX.FC written (R150). -/
theorem finish_classify_of_rsvd (two : 2 ≤ f.len) (rsvd : fc.extractLsb' 2 2 = 3) :
    finish opClassify s = .next (dropPath .malformedReservedType { s with ctx := { s.ctx with fc := some fc } }) := by
  refine finish_bind_eq (readFc_of_fits hf hw two) <| finish_bind_eq (writeCtx_apply _ _) ?_
  rw [← hfc, (typeRow_eq_rsvd_iff fc).2 rsvd]
  rfl

/-- Of any other type every register is written before the header's length is checked (R143, R151). -/
theorem finish_classify_of_not_rsvd (ten : 10 ≤ f.len) (tagged : fc.extractLsb' 2 2 ≠ 3) :
    finish opClassify s
      = finish (requireHeader (typeRow fc) fc f.len >>= fun _ => setStage .classified)
          (s.written (classifyRegisters fc f)) := by
  have start : s = s.written {} := rfl
  rw [classifyRegisters, ← isFragment_of_length, start]
  subst hfc
  exact finish_bind_eq (readFc_of_fits hf hw (by omega)) <|
    finish_bind_eq (writeCtx_written ({ · with fc := some _ }) rfl) <|
    finish_bind_eq (runType_of_not_rsvd tagged) <|
    finish_bind_eq (writeCtx_written ({ · with isWep := some _ }) rfl) <|
    finish_bind_eq runPspoll_run <| finish_bind_eq runHdr_run <|
    finish_bind_eq (readAddr_of_fits (off := offAddr1) hf hw ten) <|
    finish_bind_eq (writeCtx_written ({ · with isMcast := some _ }) rfl) <|
    finish_bind_eq (frmLen_some hf) <| finish_bind_eq (readFragno_run hf hw) <|
    finish_bind_eq (writeCtx_written ({ · with isFrag := some _ }) rfl) <|
    finish_bind_eq (captureTa_run hf hw) rfl

end Classify

/-! ### One run of CLASSIFY against another: what is written depends on the frame alone (R152) -/

/-- The writes of a frame that is classified: every register but TA, and TA where the frame has 16 bytes (R143, R149). -/
def ClassifyWrites.Complete (x : Option Frame) (w : ClassifyWrites) : Prop :=
  ∃ fc tag wep poll h m frag ta, w = ⟨some fc, some tag, some wep, some poll, some h, some m, some frag, ta, some .classified⟩
    ∧ ∀ f, x = some f → 16 ≤ f.len → ta.isSome = true

/-- A register that is written, or left alone, in both runs. -/
theorem sameOrKept_of_or {α : Type} {r : Ctx → Option α} {c d c' d' : Ctx} {v : Option α} (h : r d = v.or (r c))
    (h' : r d' = v.or (r c')) : sameOrKept r c d c' d' := by
  cases v with
  | none => exact .inr ⟨h, h'⟩
  | some a => exact .inl (h'.trans h.symm)

/-- Each of the eight registers is written in both runs, or left alone in both. -/
theorem written_sameOrKept (w : ClassifyWrites) (s s' : State) :
    sameOrKept Ctx.fc s.ctx (s.written w).ctx s'.ctx (s'.written w).ctx
      ∧ sameOrKept Ctx.tag s.ctx (s.written w).ctx s'.ctx (s'.written w).ctx
      ∧ sameOrKept Ctx.isWep s.ctx (s.written w).ctx s'.ctx (s'.written w).ctx
      ∧ sameOrKept Ctx.isPspoll s.ctx (s.written w).ctx s'.ctx (s'.written w).ctx
      ∧ sameOrKept Ctx.hdrlen s.ctx (s.written w).ctx s'.ctx (s'.written w).ctx
      ∧ sameOrKept Ctx.isMcast s.ctx (s.written w).ctx s'.ctx (s'.written w).ctx
      ∧ sameOrKept Ctx.isFrag s.ctx (s.written w).ctx s'.ctx (s'.written w).ctx
      ∧ sameOrKept Ctx.ta s.ctx (s.written w).ctx s'.ctx (s'.written w).ctx :=
  ⟨sameOrKept_of_or (v := w.fc) rfl rfl, sameOrKept_of_or (v := w.tag) rfl rfl, sameOrKept_of_or (v := w.isWep) rfl rfl,
    sameOrKept_of_or (v := w.isPspoll) rfl rfl, sameOrKept_of_or (v := w.hdrlen) rfl rfl,
    sameOrKept_of_or (v := w.isMcast) rfl rfl, sameOrKept_of_or (v := w.isFrag) rfl rfl,
    sameOrKept_of_or (v := w.ta) rfl rfl⟩

/-- All runs over the frame `x` that have made the writes `w` go one way: they complete with one answer and one set of writes, which
are in `Q`, or they end early for one cause after one set of writes. -/
def Act.Uniform {α : Type} (m : Act α) (x : Option Frame) (w : ClassifyWrites) (Q : α → ClassifyWrites → Prop) : Prop :=
  (∃ a v, Q a v ∧ ∀ s : State, s.frm = x → m.run (s.written w) = .ok a (s.written v))
    ∨ ∃ e v, ∀ s : State, s.frm = x → m.run (s.written w) = .error e (s.written v)

section Uniform
variable {α β : Type} {x : Option Frame} {w : ClassifyWrites}

theorem uniform_bind {Q : α → ClassifyWrites → Prop} {m : Act β} {f : β → Act α}
    (h : m.Uniform x w fun b v => (f b).Uniform x v Q) : (m >>= f).Uniform x w Q := by
  obtain ⟨b, v, ⟨a, u, q, hf⟩ | ⟨e, u, hf⟩, hm⟩ | ⟨e, v, hm⟩ := h
  · exact .inl ⟨a, u, q, fun s hs => (run_bind_of_ok (hm s hs)).trans (hf s hs)⟩
  · exact .inr ⟨e, u, fun s hs => (run_bind_of_ok (hm s hs)).trans (hf s hs)⟩
  · exact .inr ⟨e, v, fun s hs => run_bind_of_error (hm s hs)⟩

theorem uniform_pure {Q : α → ClassifyWrites → Prop} {a : α} (q : Q a w) : (pure a : Act α).Uniform x w Q :=
  .inl ⟨a, w, q, fun _ _ => rfl⟩

/-! ### Reads -/

theorem uniform_memRead {Q : List Byte → ClassifyWrites → Prop} {off n : Nat} (q : ∀ b, Q b w) :
    (memRead off n).Uniform x w Q := by
  cases x with
  | none => exact .inr ⟨.stuck .noFrame, w, fun s hs => by simp [memRead, EStateM.run, State.written, hs]⟩
  | some f =>
    by_cases short : f.len < off + n
    · exact .inr ⟨_, w, fun s hs => memRead_of_short (s := s.written w) hs short⟩
    · by_cases overrun : f.buf.length < f.head + off + n
      · exact .inr ⟨.stuck .bufferOverrun, w, fun s hs => by simp [memRead, EStateM.run, State.written, hs, short, overrun]⟩
      · exact .inl ⟨f.slice off n, w, q _, fun s hs => by simp [memRead, EStateM.run, State.written, hs, short, overrun]⟩

theorem uniform_frmLen {Q : Nat → ClassifyWrites → Prop} (q : ∀ f, x = some f → Q f.len w) : frmLen.Uniform x w Q := by
  cases x with
  | none => exact .inr ⟨.stuck .noFrame, w, fun s hs => by simp [frmLen, EStateM.run, State.written, hs]⟩
  | some f => exact .inl ⟨f.len, w, q f rfl, fun s hs => frmLen_some (s := s.written w) hs⟩

theorem uniform_readFc {Q : BitVec 16 → ClassifyWrites → Prop} (q : ∀ fc, Q fc w) : readFc.Uniform x w Q :=
  uniform_bind <| uniform_memRead fun _ => uniform_pure (q _)

theorem uniform_readAddr {Q : Addr → ClassifyWrites → Prop} {off : Nat} (q : ∀ a, Q a w) : (readAddr off).Uniform x w Q :=
  uniform_bind <| uniform_memRead fun _ => uniform_pure (q _)

theorem uniform_readFragno {Q : BitVec 4 → ClassifyWrites → Prop} {l : Nat} (q : ∀ n, Q n w) :
    (readFragno l).Uniform x w Q := by
  unfold readFragno
  split
  · exact uniform_bind <| uniform_memRead fun _ => uniform_pure (q _)
  · exact uniform_pure (q _)

/-! ### Writes and raises -/

variable {Q : Unit → ClassifyWrites → Prop}

theorem uniform_writeCtx {g : Ctx → Ctx} (k : ClassifyWrites → ClassifyWrites)
    (h : ∀ s : State, { s.written w with ctx := g (s.written w).ctx } = s.written (k w)) (q : Q () (k w)) :
    (writeCtx g).Uniform x w Q :=
  .inl ⟨(), k w, q, fun s _ => writeCtx_written k (h s)⟩

theorem uniform_setStage {st : Stage} (q : Q () { w with stage := some st }) : (setStage st).Uniform x w Q :=
  .inl ⟨(), _, q, fun _ _ => rfl⟩

theorem uniform_require {c : Bool} {r : Reason} (q : Q () w) : (require c r).Uniform x w Q := by
  cases c with
  | true => exact .inl ⟨(), w, q, fun _ _ => rfl⟩
  | false => exact .inr ⟨.raise r, w, fun _ _ => rfl⟩

/-! ### The parts of CLASSIFY -/

theorem uniform_runType {r : TypeRow} (q : ∀ tag, Q () { w with tag := some tag }) : (runType r).Uniform x w Q := by
  unfold runType opClsMgmt opClsCtrl opClsData opClsRsvd
  cases r with
  | mgmt => exact uniform_writeCtx ({ · with tag := some .mgmt }) (fun _ => rfl) (q _)
  | ctrl => exact uniform_writeCtx ({ · with tag := some .ctrl }) (fun _ => rfl) (q _)
  | data => exact uniform_writeCtx ({ · with tag := some .data }) (fun _ => rfl) (q _)
  | rsvd => exact .inr ⟨_, w, fun _ _ => rfl⟩

theorem uniform_runPspoll {hit : Bool} (q : ∀ p, Q () { w with isPspoll := some p }) :
    (if hit then opClsPspoll else notPspoll : Act Unit).Uniform x w Q := by
  unfold opClsPspoll notPspoll
  split
  · exact uniform_writeCtx ({ · with isPspoll := some true }) (fun _ => rfl) (q _)
  · exact uniform_writeCtx ({ · with isPspoll := some false }) (fun _ => rfl) (q _)

theorem uniform_runHdr {r : HdrRow} (q : ∀ h, Q () { w with hdrlen := some h }) : (runHdr r).Uniform x w Q := by
  unfold runHdr opHdrA4 opHdrA3
  cases r with
  | a4 => exact uniform_writeCtx ({ · with hdrlen := some (hdrLenOf .a4) }) (fun _ => rfl) (q _)
  | a3 => exact uniform_writeCtx ({ · with hdrlen := some (hdrLenOf .a3) }) (fun _ => rfl) (q _)

theorem uniform_captureTa {l : Nat} (taken : ∀ a, Q () { w with ta := some a }) (short : ¬ 16 ≤ l → Q () w) :
    (captureTa l).Uniform x w Q := by
  unfold captureTa
  split
  · exact uniform_bind <| uniform_readAddr fun a => uniform_writeCtx ({ · with ta := some a }) (fun _ => rfl) (taken a)
  · next h => exact uniform_pure (short h)

end Uniform

/-- CLASSIFY, line by line, from no write to the complete ones. -/
theorem uniform_opClassify (x : Option Frame) : opClassify.Uniform x {} fun _ v => v.Complete x := by
  refine uniform_bind <| uniform_readFc fun fc => uniform_bind <| uniform_writeCtx ({ · with fc := some fc }) (fun _ => rfl) ?_
  refine uniform_bind <| uniform_runType fun tag => ?_
  refine uniform_bind <| uniform_writeCtx ({ · with isWep := some (fcProtected fc) }) (fun _ => rfl) ?_
  refine uniform_bind <| uniform_runPspoll fun poll => uniform_bind <| uniform_runHdr fun h => ?_
  refine uniform_bind <| uniform_readAddr fun a1 => ?_
  refine uniform_bind <| uniform_writeCtx ({ · with isMcast := some (groupAddressed a1) }) (fun _ => rfl) ?_
  refine uniform_bind <| uniform_frmLen fun f hf => uniform_bind <| uniform_readFragno fun n => ?_
  refine uniform_bind <| uniform_writeCtx ({ · with isFrag := some (isFragment fc n) }) (fun _ => rfl) ?_
  refine uniform_bind <| uniform_captureTa (fun a => ?_) (fun short => ?_)
  · exact uniform_bind <| uniform_require <| uniform_setStage ⟨_, _, _, _, _, _, _, some a, rfl, fun _ _ _ => rfl⟩
  · refine uniform_bind <| uniform_require <| uniform_setStage ⟨_, _, _, _, _, _, _, none, rfl, fun g hg long => ?_⟩
    cases hf.symm.trans hg
    exact absurd long short

/-- A step of CLASSIFY is the same writes, or the same drop after the same writes, from every state with that frame (R152). -/
theorem exec_classify_cases {x : Option Frame} {t : State} (hs : s.frm = x) (h : exec .classify s = .next t) :
    (∃ w : ClassifyWrites, w.Complete x ∧ ∀ u : State, u.frm = x → exec .classify u = .next (u.written w))
      ∨ ∃ r w, ∀ u : State, u.frm = x → exec .classify u = .next (dropPath r (u.written w)) := by
  obtain ⟨_, w, complete, run⟩ | ⟨e, w, run⟩ := uniform_opClassify x
  · exact .inl ⟨w, complete, fun u hu => finish_of_ok (run u hu)⟩
  · cases e with
    | raise r => exact .inr ⟨r, w, fun u hu => finish_of_raise (run u hu)⟩
    | stuck f => exact nomatch h.symm.trans (finish_of_stuck (run s hs))

end Sys2Proof.Machine

namespace Sys2Proof.Proofs
open Sys2Proof.Machine

/-- Settles O25, row by row. -/
theorem classifierRows : Obligations.ClassifierRows :=
  fun _ => ⟨rfl, rfl, rfl, rfl, rfl, rfl, rfl⟩

/-- Settles O22: the wrapped length outside its interval, the logical length outside its own, or both inside. -/
theorem lenchk : Obligations.Lenchk := by
  refine ⟨rfl, fun s at_ port => step_of_issue port (c := .seq .lenchk) (by simp only [issue, at_]) rfl, fun s w f hw hf => ?_⟩
  by_cases wrapped : w.toNat < 32 ∨ 2364 < w.toNat
  · rw [if_pos (by omega)]
    exact finish_lenchk_of_wrapped hw wrapped
  · by_cases logical : f.len < 14 ∨ 2346 < f.len
    · rw [if_pos (by omega)]
      exact finish_lenchk_of_logical hw (by omega) (by omega) hf logical
    · rw [if_neg (by omega)]
      exact finish_lenchk_of_fits hw (by omega) (by omega) hf (by omega) (by omega)

/-- Settles O23: a reserved type, a data frame shorter than its header, or a classified frame. -/
theorem classify : Obligations.Classify := by
  intro s f L fc a4 c hf form ten hL hfc ha4 hc
  rw [hf] at form
  have hw := wf_some.1 form
  subst hL ha4
  have registers : s.written (classifyRegisters fc f) = { s with ctx := c } := by
    rw [hc]
    by_cases sixteen : 16 ≤ f.len <;> simp [State.written, classifyRegisters, sixteen]
  by_cases rsvd : fc.extractLsb' 2 2 = 3
  · rw [if_pos rsvd]
    exact finish_classify_of_rsvd hf hw hfc (by omega) rsvd
  · rw [if_neg rsvd]
    refine (finish_classify_of_not_rsvd hf hw hfc ten rsvd).trans ?_
    rw [registers]
    by_cases short : fc.extractLsb' 2 2 = 2 ∧ f.len < if (fc.getLsbD 8 && fc.getLsbD 9) = true then 30 else 24
    · rw [if_pos short]
      obtain ⟨data, short⟩ := short
      exact finish_of_raise (run_bind_of_error (requireHeader_of_short data short))
    · rw [if_neg short]
      exact finish_bind_eq (requireHeader_of_fits short) rfl

/-- Settles O24: both runs make the writes that the frame decides, and a second run makes them again. -/
theorem classifyPure : Obligations.ClassifyPure := by
  refine ⟨fun s s' t same h => ?_, fun s t h at_ => ?_⟩
  · obtain ⟨w, complete, run⟩ | ⟨r, w, run⟩ := exec_classify_cases rfl h
    · cases h.symm.trans (run s rfl)
      have alike := written_sameOrKept w s s'
      obtain ⟨_, _, _, _, _, _, _, v, rfl, captured⟩ := complete
      obtain ⟨fc, tag, wep, poll, hdrlen, mcast, frag, ta⟩ := alike
      refine ⟨_, run s' same, rfl, same, fc, tag, wep, poll, hdrlen, mcast, frag, ta, nofun,
        fun _ => ⟨rfl, rfl, rfl, rfl, rfl, rfl, rfl, fun f hf long => ?_, rfl, rfl, rfl, rfl⟩, rfl, rfl, rfl, rfl, rfl, rfl⟩
      obtain ⟨a, rfl⟩ := Option.isSome_iff_exists.1 (captured f hf long)
      rfl
    · cases h.symm.trans (run s rfl)
      obtain ⟨fc, tag, wep, poll, hdrlen, mcast, frag, ta⟩ := written_sameOrKept w s s'
      exact ⟨_, run s' same, rfl, rfl, fc, tag, wep, poll, hdrlen, mcast, frag, ta, fun _ => rfl, nofun, rfl, rfl, rfl, rfl,
        rfl, rfl⟩
  · obtain ⟨w, -, run⟩ | ⟨r, w, run⟩ := exec_classify_cases rfl h
    · cases h.symm.trans (run s rfl)
      rw [run (s.written w) rfl, written_written]
    · cases h.symm.trans (run s rfl)
      cases at_

end Sys2Proof.Proofs
end

section
/-! PROOFS. The access-point filter: the class rules, the four power-save outcomes, PSQ.PUSH and the rows of ROUTE (R162 to R173,
R181 to R187). -/
namespace Sys2Proof.Machine

variable {s : State}

/-! ### PSQ.PUSH (R186, R187) -/

theorem finish_psqPush {i : Nat} {e : StaEntry} {f : Frame} (he : s.st[i]? = some e) (hf : s.frm = some f) :
    finish (opPsqPush i) s
      = .next (if s.par.psqCap ≤ e.q.length then dropPath .queueOverflow s
          else { s with st := s.st.set i { e with q := e.q ++ [f.packet] }, frm := none }) := by
  refine finish_bind_eq (staAt_some he) <| finish_bind_eq (look_apply _ s) ?_
  by_cases full : s.par.psqCap ≤ e.q.length
  · rw [if_pos full]
    exact finish_of_raise (run_bind_of_error (require_false (decide_eq_false (by omega)) _ _))
  · rw [if_neg full, ← modify_eq_set he fun e => { e with q := e.q ++ [f.packet] }]
    exact finish_bind_eq (require_true (decide_eq_true (by omega)) _ _) <| finish_bind_eq (theFrame_some hf) <|
      finish_bind_eq (modifySta_some he _) rfl

/-! ### APCTL, up to the row of STA3 (R162) -/

theorem requireTa_none (h : s.ctx.ta = none) : requireTa.run s = .error (.raise .malformedTruncated) s := by
  simp [requireTa, EStateM.run, h]

theorem requireTa_some {a : Addr} (h : s.ctx.ta = some a) : requireTa.run s = .ok a s := by
  simp [requireTa, EStateM.run, h]

theorem sta3Row_none : sta3Row (sta3Word none) = .deauth := rfl

/-- The row of an entry that the lookup found, by its STATE (R121, R166, R167). -/
theorem sta3Row_found (e : StaEntry) :
    sta3Row (sta3Word (some e)) = if e.assoc = .unauthenticated then .deauth
      else if e.assoc = .authenticated then .disassoc
      else .passOn := by
  change sta3Row ((1 : BitVec 1) ++ e.assoc.code) = _
  cases e.assoc <;> rfl

theorem exec_apctl_of_truncated (hta : s.ctx.ta = none) : exec .apctl s = .next (dropPath .malformedTruncated s) :=
  finish_of_raise (run_bind_of_error (requireTa_none hta))

section Transmitter
variable {a : Addr} (hta : s.ctx.ta = some a)
include hta

/-- APCTL runs the row that the lookup of the transmitter selects (R162). -/
theorem exec_apctl :
    exec .apctl s
      = finish (runSta3 (sta3Row (sta3Word ((stLookup s.st a).bind fun i => s.st[i]?))))
          { s with ctx := { s.ctx with sta := some (stLookup s.st a) } } :=
  finish_bind_eq (requireTa_some hta) rfl

theorem exec_apctl_of_unknown (hl : stLookup s.st a = none) :
    exec .apctl s = finish opApctlDeauth { s with ctx := { s.ctx with sta := some none } } := by
  rw [exec_apctl hta, hl, Option.bind_none, sta3Row_none]
  rfl

theorem exec_apctl_of_found {i : Nat} {e : StaEntry} {r : Sta3Row} (hl : stLookup s.st a = some i) (he : s.st[i]? = some e)
    (row : sta3Row (sta3Word (some e)) = r) :
    exec .apctl s = finish (runSta3 r) { s with ctx := { s.ctx with sta := some (some i) } } := by
  rw [exec_apctl hta, hl, Option.bind_some, he, row]

end Transmitter

/-! ### The power-save half of APCTL (R162, R169 to R173) -/

/-- An operation that can end in no other way than by completing reaches the state that its step shows. -/
theorem run_of_finish {m : Act Unit} {Q : Unit → State → Prop} {t : State} (ends : m.Ends s Q (fun _ => False) False)
    (h : finish m s = .next t) : m.run s = .ok () t := by
  obtain ok | ⟨r, u, raised, -⟩ := finish_next_iff.1 h
  · exact ok
  · simp [Act.Ends, raised] at ends

section PowerSave
variable {i : Nat} {e : StaEntry} (hsta : s.ctx.sta = some (some i)) (he : s.st[i]? = some e)
include hsta he

/-- The power-save half runs the row of PSW3 and moves the stage on (R162). -/
theorem finish_apctlPowerSave {p : Bool} {fc : BitVec 16} {r : Psw3Row} {t : State} (hp : s.ctx.isPspoll = some p)
    (hfc : s.ctx.fc = some fc) (selected : psw3Row (psw3Word p (fcPm fc) e.ps) = r) (row : finish (runPsw3 r) s = .next t) :
    finish apctlPowerSave s = .next { t with stage := .apFiltered } := by
  subst selected
  exact finish_bind_eq (theStation_some hsta) <| finish_bind_eq (staAt_some he) <| finish_bind_eq (readCtx_some hp) <|
    finish_bind_eq (readCtx_some hfc) <| finish_bind_eq (run_of_finish (runPsw3_ends hsta he) row) rfl

end PowerSave

end Sys2Proof.Machine

namespace Sys2Proof.Proofs
open Sys2Proof.Machine

/-- Settles O26: no transmitter address, none found, or the two states of a found one that are not Associated. -/
theorem apctlClassRules : Obligations.ApctlClassRules := by
  refine ⟨fun s hta => exec_apctl_of_truncated hta, fun s a hta unknown => ?_,
    fun s a i e hta hl he => ⟨fun un => ?_, fun auth => ?_⟩⟩
  · have hl : stLookup s.st a = none := stLookup_none.2 fun e he ⟨hv, ha⟩ => unknown e he hv ha
    exact (exec_apctl_of_unknown hta hl).trans (finish_apctlDeauth hta)
  · exact (exec_apctl_of_found hta hl he (r := .deauth) (by simp [sta3Row_found, un])).trans (finish_apctlDeauth hta)
  · exact (exec_apctl_of_found hta hl he (r := .disassoc) (by simp [sta3Row_found, auth])).trans (finish_apctlDisassoc hta)

/-- Settles O27: PS-Poll first, then the PM bit, then the PS flag pick the row; the row's own rule says what it writes. -/
theorem apctlPowerSave : Obligations.ApctlPowerSave := by
  intro s a i e p fc t hta hl he assoc hp hfc ht
  subst ht
  rw [exec_apctl_of_found hta hl he (r := .passOn) (by simp [sta3Row_found, assoc])]
  have hsta : ({ s with ctx := { s.ctx with sta := some (some i) } } : State).ctx.sta = some (some i) := rfl
  have selected := psw3Row_ofBool p (fcPm fc) e.ps
  have pmBit : fcPm fc = fc.getLsbD 12 := rfl
  by_cases poll : p = true
  · rw [if_pos poll]
    exact finish_apctlPowerSave hsta he hp hfc (selected.trans (if_pos poll)) (finish_apctlPspoll hsta he)
  rw [if_neg poll]
  rw [if_neg poll, pmBit] at selected
  by_cases pm : fc.getLsbD 12 = true
  · rw [if_neg (by simp [pm]), if_pos pm]
    exact finish_apctlPowerSave hsta he hp hfc (selected.trans (if_pos pm)) (finish_apctlPsset hsta he)
  rw [if_neg pm] at selected
  by_cases ps : e.ps = true
  · rw [if_pos ⟨Bool.eq_false_iff.2 pm, ps⟩]
    exact finish_apctlPowerSave hsta he hp hfc (selected.trans (if_pos ps)) (finish_apctlPswake hsta he)
  · rw [if_neg (by simp [ps]), if_neg pm]
    exact finish_apctlPowerSave hsta he hp hfc (selected.trans (if_neg ps)) rfl

/-- Settles O31: each row by its own rule. -/
theorem routeRows : Obligations.RouteRows :=
  fun _ => ⟨rfl, rfl, rfl, fun _ _ hf h0 => finish_routeMcq hf h0,
    fun _ _ _ hda hl he => ⟨finish_routeUcrelay hda hl, fun _ hf => finish_routeUcq hda hl hf he⟩⟩

/-- Settles O32: a full queue, or one with room. -/
theorem psqPush : Obligations.PsqPush :=
  fun _ _ _ _ he hf => finish_psqPush he hf

end Sys2Proof.Proofs
end


section
/-! PROOFS. The decryption dispatcher: its operations row by row, what all eleven leave alone, and where the ciphers store (R203,
R207, R212, R216 to R220, R232, R236). -/
namespace Sys2Proof.Machine

variable {α β : Type} {s : State}

/-! ### IVPARSE (R203) -/

theorem finish_ivparse {f : Frame} {h : BitVec 5} (hf : s.frm = some f) (hw : f.head + f.len ≤ f.buf.length)
    (hh : s.ctx.hdrlen = some h) :
    finish opIvparse s
      = .next (if f.len < h.toNat + 4 then dropPath .malformedTruncated s
          else { s with ctx := { s.ctx with
              iv := some (iv4Of (f.slice h.toNat 4))
              kidx := some (ivKidx (iv4Of (f.slice h.toNat 4)))
              extIv := some (ivbExt (iv4Of (f.slice h.toNat 4)).b3) } }) := by
  refine finish_bind_eq (readHdrlen_some hh) ?_
  by_cases short : f.len < h.toNat + 4
  · rw [if_pos short]
    exact finish_of_raise (run_bind_of_error (memRead_of_short hf short))
  · rw [if_neg short]
    exact finish_bind_eq (memRead_of_fits hf hw (by omega)) rfl

/-- The four bytes read are the live bytes at the same offsets. -/
theorem iv4Of_slice {f : Frame} {o : Nat} (h : o + 4 ≤ f.len) :
    iv4Of (f.slice o 4)
      = ⟨byteAt f.live o, byteAt f.live (o + 1), byteAt f.live (o + 2), byteAt f.live (o + 3)⟩ := by
  unfold iv4Of
  rw [byteAt_slice f h (by omega), byteAt_slice f h (by omega), byteAt_slice f h (by omega), byteAt_slice f h (by omega),
    Nat.add_zero]

/-! ### The rows of KEYSEL (R207, R210) -/

/-- A key that is found is written, and where none is found CTX.KEY stays. -/
theorem finish_keepKey (k : Option Nat) :
    finish (keepKey k) s = .next { s with ctx := { s.ctx with key := k.or s.ctx.key } } := by
  cases k <;> rfl

theorem finish_keyselPw {ta : Addr} (hta : s.ctx.ta = some ta) :
    finish opKeyselPw s
      = .next { s with ctx := { s.ctx with usePw := some true, key := (ksLookup s.ks .pairwise ta 0).or s.ctx.key } } := by
  have found : lookupPairwise.run s
      = .ok (ksLookup s.ks .pairwise ta 0) { s with ctx := { s.ctx with usePw := some true } } := by
    simp [lookupPairwise, hta]
  exact finish_bind_eq found (finish_keepKey _)

theorem finish_keyselGrp {ki : BitVec 2} (hki : s.ctx.kidx = some ki) :
    finish opKeyselGrp s
      = .next { s with ctx := { s.ctx with usePw := some false, key := (ksLookup s.ks .group s.cfg.bssid ki).or s.ctx.key } } := by
  have found : lookupGroup.run s
      = .ok (ksLookup s.ks .group s.cfg.bssid ki) { s with ctx := { s.ctx with usePw := some false } } := by
    simp [lookupGroup, hki]
  exact finish_bind_eq found (finish_keepKey _)

/-! ### CIPHERCHK (R212) -/

theorem finish_cipherchk {h : Nat} {k : KeyRec} {pw : Bool} (hkey : s.ctx.key = some h) (hk : s.ks[h]? = some k)
    (hpw : s.ctx.usePw = some pw) :
    finish opCipherchk s
      = .next (if k.suite ≠ (if pw = true then s.cfg.pairwiseSuite else s.cfg.groupSuite) then dropPath .cipherMismatch s
          else { s with ctx := { s.ctx with suite := some k.suite } }) := by
  refine finish_bind_eq (theKey_some hkey hk) <| finish_bind_eq (readCtx_some hpw) <| finish_bind_eq (look_apply _ _) ?_
  by_cases same : k.suite = (if pw = true then s.cfg.pairwiseSuite else s.cfg.groupSuite)
  · rw [if_neg (not_not_intro same)]
    exact finish_bind_eq (require_true (beq_iff_eq.2 same) _ _) rfl
  · rw [if_pos same]
    exact finish_of_raise (run_bind_of_error (require_false (beq_eq_false_iff_ne.2 same) _ _))

/-! ### DEC.WEP (R218, R219, R220) -/

section Wep
variable {f : Frame} {h : BitVec 5} {iv : Iv4} {kh : Nat} {k : KeyRec}

/-- WEP has no extended IV (R220). -/
theorem finish_decWep_of_extendedIv (hext : s.ctx.extIv = some true) :
    finish opDecWep s = .next (dropPath .noKeyIvFormat s) :=
  finish_bind_eq (readCtx_some hext) rfl

variable (hext : s.ctx.extIv = some false) (hh : s.ctx.hdrlen = some h) (hf : s.frm = some f)
include hext hh hf

theorem finish_decWep_of_short (short : f.len < h.toNat + 4 + 4) :
    finish opDecWep s = .next (dropPath .malformedTruncated s) := by
  refine finish_bind_eq (readCtx_some hext) <| finish_bind_eq (require_true rfl _ _) <|
    finish_bind_eq (readHdrlen_some hh) <| finish_bind_eq (frmLen_some hf) ?_
  exact finish_of_raise (run_bind_of_error (require_false (decide_eq_false (by omega)) _ _))

/-- DEC.WEP of a frame that holds the IV and an ICV: the region behind the IV is deciphered and written back before the ICV test
decides (R218, R219). -/
theorem finish_decWep_of_fits {d : Nat} {p : List Byte} {t : State} (hw : f.head + f.len ≤ f.buf.length)
    (hiv : s.ctx.iv = some iv) (hkey : s.ctx.key = some kh) (hk : s.ks[kh]? = some k)
    (fits : h.toNat + 4 + 4 ≤ f.len) (hd : d = f.len - h.toNat - 4 - 4)
    (hp : p = (Config.rc4 (wepRc4Key iv k.material) (d + 4) (toVec (d + 4) (f.live.drop (h.toNat + 4)))).toList)
    (ht : t = { s with frm := some (f.write (h.toNat + 4) p),
                       ctx := { s.ctx with decryptOk := some (Config.crc32 (p.take d) == le32 (p.drop d)) } }) :
    finish opDecWep s
      = .next (if Config.crc32 (p.take d) = le32 (p.drop d) then t else dropPath .integrityWep t) := by
  have plength : p.length = d + 4 := by rw [hp, Vector.length_toList]
  have inside : h.toNat + 4 + p.length ≤ f.len := by omega
  have region : f.slice (h.toNat + 4) (d + 4) = f.live.drop (h.toNat + 4) := Frame.slice_tail hw (by omega)
  have test := icvOk_eq plength
  rw [← region] at hp
  rw [← test] at ht
  have icv : finish (require (icvOk p d) .integrityWep) t
      = .next (if Config.crc32 (p.take d) = le32 (p.drop d) then t else dropPath .integrityWep t) := by
    rw [test]
    split_ifs with ok
    · exact finish_of_ok (require_true (beq_iff_eq.2 ok) _ _)
    · exact finish_of_raise (require_false (beq_eq_false_iff_ne.2 ok) _ _)
  subst hd hp ht
  exact finish_bind_eq (readCtx_some hext) <| finish_bind_eq (require_true rfl _ _) <|
    finish_bind_eq (readHdrlen_some hh) <| finish_bind_eq (frmLen_some hf) <|
    finish_bind_eq (require_true (decide_eq_true fits) _ _) <| finish_bind_eq (readCtx_some hiv) <|
    finish_bind_eq (theKey_some hkey hk) <| finish_bind_eq (memRead_of_fits hf hw (by omega)) <|
    finish_bind_eq (memWrite_of_fits hf hw inside) <| finish_bind_eq (writeCtx_apply _ _) icv

end Wep

/-! ### STRIP (R223, R232) -/

theorem finish_strip {f : Frame} {su : Suite} (hf : s.frm = some f) (hsu : s.ctx.suite = some su) :
    finish opStrip s
      = .next (if f.len < trailerLength su then dropPath .malformedTruncated s
          else { s with frm := some (f.truncate (trailerLength su)), ctx := { s.ctx with dec := true }, stage := .decrypted }) := by
  refine finish_bind_eq (readCtx_some hsu) ?_
  by_cases short : f.len < trailerLength su
  · rw [if_pos short]
    exact finish_of_raise (run_bind_of_error (truncateTail_of_short hf short))
  · rw [if_neg short]
    exact finish_bind_eq (truncateTail_of_fits hf (Nat.not_lt.1 short)) rfl

/-! ### What the dispatcher leaves alone (R236) -/

/-- From `s` to `t` nothing but CTX, the frame and the stage was written. -/
def PassRegistersOnly (s t : State) : Prop :=
  ∃ (c : Ctx) (x : Option Frame) (g : Stage), t = { s with ctx := c, frm := x, stage := g }

theorem PassRegistersOnly.refl (s : State) : PassRegistersOnly s s := ⟨s.ctx, s.frm, s.stage, rfl⟩

theorem PassRegistersOnly.trans (s t u : State) (first : PassRegistersOnly s t) (second : PassRegistersOnly t u) :
    PassRegistersOnly s u := by
  obtain ⟨_, _, _, rfl⟩ := first
  obtain ⟨c, x, g, rfl⟩ := second
  exact ⟨c, x, g, rfl⟩

/-- The action writes nothing but CTX, the frame and the stage, and each of its raises has a counter (R236, R371). -/
structure Act.Confined (m : Act α) : Prop where
  writes : m.Rel PassRegistersOnly
  counted : ∀ s r t, m.run s = .error (.raise r) t → (reasonCounter r).isSome = true

/-- An action that never raises needs only its writes. -/
theorem confined_of_ends {m : Act α} (h : ∀ s, m.Ends s (fun _ t => PassRegistersOnly s t) (fun _ => False) True) :
    m.Confined := by
  have raises : ∀ s r t, m.run s ≠ .error (.raise r) t := fun s r t e => by simpa [Act.Ends, e] using h s
  refine ⟨fun s => ⟨fun a t e => ?_, fun r t e => absurd e (raises s r t)⟩, fun s r t e => absurd e (raises s r t)⟩
  simpa [Act.Ends, e] using h s

theorem confined_bind {m : Act α} {g : α → Act β} (first : m.Confined) (rest : ∀ a, (g a).Confined) : (m >>= g).Confined := by
  refine ⟨rel_bind PassRegistersOnly.trans first.writes fun a => (rest a).writes, fun s r t e => ?_⟩
  rw [EStateM.run_bind] at e
  cases hm : m.run s with
  | ok a u =>
    rw [hm] at e
    exact (rest a).counted u r t e
  | error x u =>
    rw [hm] at e
    cases e
    exact first.counted s r _ hm

theorem confined_pure (a : α) : (pure a : Act α).Confined := confined_of_ends fun s => ends_pure (.refl s)

theorem confined_readCtx (r : CtxReg) (get : Ctx → Option α) : (readCtx r get).Confined :=
  confined_of_ends fun s => ends_readCtx (fun _ => trivial) fun _ _ => .refl s

theorem confined_look (f : State → α) : (look f).Confined := confined_of_ends fun s => ends_look (.refl s)

theorem confined_frmLen : frmLen.Confined :=
  confined_of_ends fun s => ends_frmLen (fun _ => trivial) fun _ _ => .refl s

theorem confined_theKey : theKey.Confined :=
  confined_of_ends fun s => ends_theKey (fun _ => trivial) fun _ _ _ _ => .refl s

theorem confined_writeCtx (f : Ctx → Ctx) : (writeCtx f).Confined :=
  confined_of_ends fun s => ends_writeCtx ⟨f s.ctx, s.frm, s.stage, rfl⟩

theorem confined_setStage (x : Stage) : (setStage x).Confined :=
  confined_of_ends fun s => ends_setStage ⟨s.ctx, s.frm, x, rfl⟩

theorem confined_raise {r : Reason} (h : (reasonCounter r).isSome = true) : (raise r).Confined :=
  ⟨rel_raise .refl r, fun _ _ _ e => by cases e; exact h⟩

theorem confined_require {r : Reason} (h : (reasonCounter r).isSome = true) (c : Bool) : (require c r).Confined := by
  refine ⟨rel_require .refl c r, fun s r' t e => ?_⟩
  cases c <;> cases e
  exact h

/-- MemRead raises by the bounds rule alone (R74). -/
theorem memRead_raise {off n : Nat} {t : State} {r : Reason} (h : (memRead off n).run s = .error (.raise r) t) :
    r = .malformedTruncated := by
  simp only [memRead, EStateM.run] at h
  split at h
  · cases h
  · split_ifs at h <;> cases h
    rfl

theorem confined_memRead (off n : Nat) : (memRead off n).Confined :=
  ⟨rel_memRead .refl off n, fun _ _ _ e => by rw [memRead_raise e]; rfl⟩

theorem confined_memWrite (off : Nat) (v : List Byte) : (memWrite off v).Confined :=
  ⟨rel_memWrite .refl (fun s f off v _ _ => ⟨s.ctx, some (f.write off v), s.stage, rfl⟩) off v, fun _ _ _ e => by
    obtain ⟨-, rfl, -⟩ := memWrite_raise e
    rfl⟩

/-- `truncate_tail` raises by the bounds rule alone (R78). -/
theorem truncateTail_raise {n : Nat} {t : State} {r : Reason} (h : (truncateTail n).run s = .error (.raise r) t) :
    r = .malformedTruncated := by
  simp only [truncateTail, EStateM.run] at h
  split at h
  · cases h
  · split_ifs at h
    cases h
    rfl

theorem confined_truncateTail (n : Nat) : (truncateTail n).Confined :=
  ⟨rel_truncateTail .refl (fun s f n _ _ => ⟨s.ctx, some (f.truncate n), s.stage, rfl⟩) n,
    fun _ _ _ e => by rw [truncateTail_raise e]; rfl⟩

theorem confined_readHdrlen : readHdrlen.Confined := confined_bind (confined_readCtx _ _) fun _ => confined_pure _

theorem confined_opIvparse : opIvparse.Confined :=
  confined_bind confined_readHdrlen fun _ => confined_bind (confined_memRead _ _) fun _ => confined_writeCtx _

theorem confined_keepKey (k : Option Nat) : (keepKey k).Confined := by
  cases k with
  | none => exact confined_pure ()
  | some h =>
    unfold keepKey
    exact confined_writeCtx _

theorem confined_lookupPairwise : lookupPairwise.Confined :=
  confined_bind (confined_writeCtx _) fun _ => confined_bind (confined_readCtx _ _) fun _ =>
  confined_bind (confined_look _) fun _ => confined_pure _

theorem confined_lookupGroup : lookupGroup.Confined :=
  confined_bind (confined_writeCtx _) fun _ => confined_bind (confined_readCtx _ _) fun _ =>
  confined_bind (confined_look _) fun _ => confined_bind (confined_look _) fun _ => confined_pure _

theorem confined_opKeyselBcast : opKeyselBcast.Confined :=
  confined_bind (confined_readCtx _ _) fun _ => confined_bind (confined_look _) fun _ =>
  confined_bind (confined_require rfl _) fun _ => confined_keepKey _

theorem confined_opKeysel : opKeysel.Confined := by
  refine confined_bind (confined_readCtx _ _) fun _ => confined_bind (confined_look _) fun cfg => confined_bind ?_ fun k => ?_
  · cases ksel1Row _ with
    | pw => exact confined_lookupPairwise
    | grp => exact confined_lookupGroup
  · cases k with
    | none => exact confined_opKeyselBcast
    | some h => exact confined_keepKey (some h)

theorem confined_opCipherchk : opCipherchk.Confined :=
  confined_bind confined_theKey fun _ => confined_bind (confined_readCtx _ _) fun _ =>
  confined_bind (confined_look _) fun _ => confined_bind (confined_require rfl _) fun _ => confined_writeCtx _

theorem confined_opDecWep : opDecWep.Confined :=
  confined_bind (confined_readCtx _ _) fun _ => confined_bind (confined_require rfl _) fun _ =>
  confined_bind confined_readHdrlen fun _ => confined_bind confined_frmLen fun _ =>
  confined_bind (confined_require rfl _) fun _ => confined_bind (confined_readCtx _ _) fun _ =>
  confined_bind confined_theKey fun _ => confined_bind (confined_memRead _ _) fun _ =>
  confined_bind (confined_memWrite _ _) fun _ => confined_bind (confined_writeCtx _) fun _ => confined_require rfl _

theorem confined_opDecTkip : opDecTkip.Confined :=
  confined_bind (confined_readCtx _ _) fun _ => confined_bind (confined_require rfl _) fun _ =>
  confined_bind confined_readHdrlen fun _ => confined_bind confined_frmLen fun _ =>
  confined_bind (confined_require rfl _) fun _ => confined_bind (confined_memRead _ _) fun _ =>
  confined_bind (confined_readCtx _ _) fun _ => confined_bind (confined_writeCtx _) fun _ =>
  confined_bind confined_theKey fun _ => confined_bind (confined_readCtx _ _) fun _ =>
  confined_bind (confined_memRead _ _) fun _ => confined_bind (confined_memWrite _ _) fun _ =>
  confined_bind (confined_require rfl _) fun _ => confined_bind (confined_memRead _ _) fun _ =>
  confined_bind (confined_require rfl _) fun _ => confined_writeCtx _

theorem confined_opDecCcmp : opDecCcmp.Confined :=
  confined_bind (confined_readCtx _ _) fun _ => confined_bind (confined_require rfl _) fun _ =>
  confined_bind confined_readHdrlen fun _ => confined_bind confined_frmLen fun _ =>
  confined_bind (confined_require rfl _) fun _ => confined_bind (confined_memRead _ _) fun _ =>
  confined_bind (confined_readCtx _ _) fun _ => confined_bind (confined_writeCtx _) fun _ =>
  confined_bind (confined_memRead _ _) fun _ => confined_bind (confined_memRead _ _) fun _ =>
  confined_bind confined_theKey fun _ => confined_bind (confined_writeCtx _) fun _ =>
  confined_bind (confined_require rfl _) fun _ => confined_memWrite _ _

theorem confined_opStrip : opStrip.Confined :=
  confined_bind (confined_readCtx _ _) fun _ => confined_bind (confined_truncateTail _) fun _ =>
  confined_bind (confined_writeCtx _) fun _ => confined_setStage _

/-- Each operation of the dispatcher is a confined action, read as a step. -/
theorem exec_dispatcherOperation {i : Instr} (h : isDispatcherOperation i) :
    ∃ m : Act Unit, m.Confined ∧ ∀ s, exec i s = finish m s := by
  obtain rfl | rfl | rfl | rfl | rfl | rfl | rfl | rfl | rfl | rfl | rfl := h
  · exact ⟨opIvparse, confined_opIvparse, fun _ => rfl⟩
  · exact ⟨opKeysel, confined_opKeysel, fun _ => rfl⟩
  · exact ⟨opKeyselPw, confined_bind confined_lookupPairwise confined_keepKey, fun _ => rfl⟩
  · exact ⟨opKeyselGrp, confined_bind confined_lookupGroup confined_keepKey, fun _ => rfl⟩
  · exact ⟨opKeyselBcast, confined_opKeyselBcast, fun _ => rfl⟩
  · exact ⟨opCipherchk, confined_opCipherchk, fun _ => rfl⟩
  · exact ⟨opDecNone, confined_raise rfl, fun _ => rfl⟩
  · exact ⟨opDecWep, confined_opDecWep, fun _ => rfl⟩
  · exact ⟨opDecTkip, confined_opDecTkip, fun _ => rfl⟩
  · exact ⟨opDecCcmp, confined_opDecCcmp, fun _ => rfl⟩
  · exact ⟨opStrip, confined_opStrip, fun _ => rfl⟩

/-- A confined action as a step: it completes, or it takes the drop path with a reason that counts (R385). -/
theorem finish_of_confined {m : Act Unit} (hm : m.Confined) {t : State} (h : finish m s = .next t) :
    PassRegistersOnly s t ∨ ∃ r c u, reasonCounter r = some c ∧ PassRegistersOnly s u ∧ t = dropPath r u := by
  obtain e | ⟨r, u, e, rfl⟩ := finish_next_iff.1 h
  · exact .inl ((hm.writes s).1 _ _ e)
  · obtain ⟨c, hc⟩ := Option.isSome_iff_exists.1 (hm.counted s r u e)
    exact .inr ⟨r, c, u, hc, (hm.writes s).2 r u e, rfl⟩

/-! ### Where the ciphers store (R218, R222, R228) -/

/-- A frame that is left has the length and the metadata of `f`, and the bytes of `f` outside the region `stored`. -/
def StoresOnly (f : Frame) (stored : Nat → Prop) (t : State) : Prop :=
  ∀ f', t.frm = some f' → f'.len = f.len ∧ f'.info = f.info ∧ ∀ a, ¬ stored a → f'.byte? a = f.byte? a

section Storing
variable {f : Frame} {stored : Nat → Prop}

/-- The drop path leaves no frame (R385). -/
theorem storesOnly_dropPath (r : Reason) (u : State) : StoresOnly f stored (dropPath r u) := nofun

/-- A write of `n` bytes stores in every region that holds them (R75). -/
theorem storesOnly_write {off stop n : Nat} {v : Vector Byte n} {t : State} (ht : t.frm = some (f.write off v.toList))
    (hw : f.head + f.len ≤ f.buf.length) (covered : off + n ≤ stop) (inside : stop ≤ f.len) :
    StoresOnly f (fun a => off ≤ a ∧ a < stop) t := by
  intro f' hf'
  obtain rfl : f.write off v.toList = f' := Option.some.inj (ht.symm.trans hf')
  have vlength : v.toList.length = n := Vector.length_toList
  refine ⟨rfl, rfl, fun a outside => ?_⟩
  rw [Frame.byte?_write (by omega) (by omega), if_neg (by omega)]

end Storing

end Sys2Proof.Machine

namespace Sys2Proof.Proofs
open Sys2Proof.Machine

/-- Settles O33: a frame without the four bytes, or the registers read from them. -/
theorem ivparse : Obligations.Ivparse := by
  refine ⟨rfl, fun s f h L hf form hh hL => ?_⟩
  rw [hf] at form
  subst hL
  refine (finish_ivparse hf (wf_some.1 form) hh).trans ?_
  split_ifs with short
  · rfl
  · rw [iv4Of_slice (Nat.not_lt.1 short)]
    rfl

/-- Settles O35: the lookup of each row, and what its answer writes. -/
theorem keyselRows : Obligations.KeyselRows :=
  ⟨rfl, rfl, fun _ _ hta => finish_keyselPw hta, fun _ _ hki => ⟨finish_keyselGrp hki, finish_orBroadcast hki none⟩⟩

/-- Settles O36: the policy's suite, or another. -/
theorem cipherchk : Obligations.Cipherchk :=
  ⟨rfl, fun _ _ _ _ hkey hk hpw => finish_cipherchk hkey hk hpw⟩

/-- Settles O37: the four words by evaluation, and DEC.NONE's raise. -/
theorem suiteDispatch : Obligations.SuiteDispatch :=
  ⟨rfl, rfl, rfl, rfl, fun _ => finish_of_raise (raise_apply _ _)⟩

/-- Settles O38: an extended IV, a short frame, or the deciphered frame under the ICV test. -/
theorem decWep : Obligations.DecWep := by
  intro s f h iv kh k ext d p t hf form hh hiv hkey hk hext hd hp ht
  rw [hf] at form
  change finish opDecWep s = _
  cases ext with
  | true =>
    rw [if_pos rfl]
    exact finish_decWep_of_extendedIv hext
  | false =>
    rw [if_neg (by decide)]
    by_cases short : f.len < h.toNat + 4 + 4
    · rw [if_pos short]
      exact finish_decWep_of_short hext hh hf short
    · rw [if_neg short]
      exact finish_decWep_of_fits hext hh hf (wf_some.1 form) hiv hkey hk (by omega) hd hp ht

/-- Settles O41: the trailer of each suite, on a frame that holds it or does not. -/
theorem strip : Obligations.Strip := by
  intro s f su n hf hsu trailer
  have hn : n = trailerLength su := by
    obtain ⟨rfl, rfl⟩ | ⟨rfl, rfl⟩ | ⟨rfl, rfl⟩ | ⟨rfl, rfl⟩ := trailer
    all_goals rfl
  subst hn
  exact finish_strip hf hsu

/-- Settles O42: every operation of the dispatcher is confined to CTX, the frame and the stage; only the drop path does more. -/
theorem dispatcherSideEffects : Obligations.DispatcherSideEffects := by
  intro i s t hi h
  obtain ⟨m, confined, hm⟩ := exec_dispatcherOperation hi
  rw [hm] at h
  obtain ⟨c, x, g, rfl⟩ | ⟨r, c, u, hc, ⟨_, _, _, rfl⟩, rfl⟩ := finish_of_confined confined h
  · exact ⟨rfl, rfl, rfl, rfl, rfl, .inl ⟨rfl, rfl, rfl⟩⟩
  · exact ⟨rfl, rfl, rfl, rfl, rfl, .inr ⟨r, c, hc, rfl, by rw [dropPath_stat, hc], rfl⟩⟩

/-- Settles O43: each cipher's rule (O38, O39, O40) says which write, if any, the frame that is left has undergone. -/
theorem ciphersStoreInPayload : Obligations.CiphersStoreInPayload := by
  intro s f h iv kh k ta ext hf form hh hiv hkey hk hta hext keeps
  have hw : f.head + f.len ≤ f.buf.length := wf_some.1 (hf ▸ form)
  refine ⟨⟨_, decWep s f h iv kh k ext _ _ _ hf form hh hiv hkey hk hext rfl rfl rfl, ?_⟩,
    ⟨_, decTkip s f h iv kh k ta ext _ _ _ _ _ _ hf form hh hiv hkey hk hta hext rfl rfl rfl rfl rfl rfl, ?_⟩,
    ⟨_, decCcmp s f h iv kh k ext _ _ _ _ _ _ hf form hh hiv hkey hk hext rfl rfl rfl rfl rfl rfl, ?_⟩⟩
  · change StoresOnly f _ _
    split_ifs with _ short
    · exact storesOnly_dropPath _ _
    · exact storesOnly_dropPath _ _
    · exact storesOnly_write rfl hw (by omega) (by omega)
    · exact storesOnly_dropPath _ _
  · change StoresOnly f _ _
    split_ifs with _ short
    · exact storesOnly_dropPath _ _
    · exact storesOnly_dropPath _ _
    · exact storesOnly_dropPath _ _
    · exact storesOnly_write rfl hw (by omega) (by omega)
    · exact storesOnly_dropPath _ _
  · change StoresOnly f _ _
    split_ifs with _ short
    · exact storesOnly_dropPath _ _
    · exact storesOnly_dropPath _ _
    · exact storesOnly_write rfl hw (by omega) (by omega)
    · exact storesOnly_dropPath _ _

end Sys2Proof.Proofs
end

section
/-! PROOFS. The replay checker: what RPLCHK does with an accepted value and with a replay, and that a value it stored is a replay
(R252 to R255, R258). -/
namespace Sys2Proof.Machine

variable {s t : State} {h : Nat} {k : KeyRec} {nh : BitVec 32} {nl : BitVec 16} {su : Suite} {r : Reason}

/-! ### The reason of a replay (R255) -/

theorem replayReason_of_row (row : (su = .tkip ∧ r = .replayTkip) ∨ (su = .ccmp ∧ r = .replayCcmp)) :
    replayReason su = some r := by
  obtain ⟨rfl, rfl⟩ | ⟨rfl, rfl⟩ := row
  · rfl
  · rfl

theorem finish_replayDetected (hsu : s.ctx.suite = some su) (hr : replayReason su = some r) :
    finish replayDetected s = .next (dropPath r s) := by
  refine finish_bind_eq (readCtx_some hsu) ?_
  rw [hr]
  exact finish_bind_eq (demand_some _ r s) (finish_of_raise (raise_apply r s))

/-! ### The acceptance (R254) -/

/-- The state after an acceptance: one record's sequence value and the stage are written, nothing else. -/
def State.withTsc (s : State) (h : Nat) (k : KeyRec) (nl : BitVec 16) (nh : BitVec 32) : State :=
  { s with ks := s.ks.set h { k with tscLo := nl, tscHi := nh }, stage := .replayChecked }

/-- The record that was checked holds the candidate afterwards. -/
theorem withTsc_ks_get (hk : s.ks[h]? = some k) :
    (s.withTsc h k nl nh).ks[h]? = some { k with tscLo := nl, tscHi := nh } :=
  List.getElem?_set_self (List.getElem?_eq_some_iff.1 hk).1

theorem acceptTsc_run (hk : s.ks[h]? = some k) : (acceptTsc h nl nh).run s = .ok () (s.withTsc h k nl nh) := by
  rw [State.withTsc, ← modify_eq_set hk fun k => { k with tscLo := nl, tscHi := nh }]
  exact run_bind_of_ok (updateReplay_apply h nl nh s)

/-- The stored value itself is no greater one, and it does not meet the wrap exception (R252, R253). -/
theorem tscAccepted_self (hi : BitVec 32) (lo : BitVec 16) : tscAccepted hi hi lo lo = false := by
  rw [← Bool.not_eq_true, tscAccepted_iff]
  rintro (greater | ⟨ones, zero⟩)
  · exact Nat.lt_irrefl _ greater
  · exact absurd (zero.symm.trans ones) (by decide)

/-! ### RPLCHK (R252) -/

/-- `t` is `s` with the candidate of its registers stored in the record of CTX.KEY. -/
def StoresCandidate (s t : State) : Prop :=
  ∃ h k nh nl, s.ctx.key = some h ∧ s.ctx.tscHi = some nh ∧ s.ctx.tscLo = some nl ∧ s.ks[h]? = some k
    ∧ t = s.withTsc h k nl nh

/-- From every state, whatever its registers hold, RPLCHK completes in no other way than by storing the candidate. -/
theorem opRplchk_completes_storing : opRplchk.Ends s (fun _ t => StoresCandidate s t) (fun _ => True) True := by
  refine ends_bind <| ends_readCtx (fun _ => trivial) fun nh hhi => ?_
  refine ends_bind <| ends_readCtx (fun _ => trivial) fun nl hlo => ?_
  refine ends_bind <| ends_readCtx (fun _ => trivial) fun h hkey => ?_
  refine ends_bind <| ends_keyAt (fun _ => trivial) fun k hk => ?_
  split
  · exact ends_of_ok (acceptTsc_run hk) ⟨h, k, nh, nl, hkey, hhi, hlo, hk, rfl⟩
  · exact ends_bind <| ends_readCtx (fun _ => trivial) fun _ _ =>
      ends_bind <| ends_demand (fun _ => trivial) fun _ _ => ends_raise trivial

/-- The stage tells the acceptance from the drop (R252, R385). -/
theorem storesCandidate_of_accepted (e : exec .rplchk s = .next t) (accepted : t.stage = .replayChecked) :
    StoresCandidate s t := by
  obtain stored | ⟨r, u, -, rfl⟩ := finish_cases_of_ends opRplchk_completes_storing e
  · exact stored
  · cases accepted

section Reads
variable (hhi : s.ctx.tscHi = some nh) (hlo : s.ctx.tscLo = some nl) (hkey : s.ctx.key = some h) (hk : s.ks[h]? = some k)
include hhi hlo hkey hk

/-- With its registers and its record there, RPLCHK is the comparison's branch. -/
theorem exec_rplchk :
    exec .rplchk s = finish (if tscAccepted nh k.tscHi nl k.tscLo then acceptTsc h nl nh else replayDetected) s :=
  finish_bind_eq (readCtx_some hhi) <| finish_bind_eq (readCtx_some hlo) <| finish_bind_eq (readCtx_some hkey) <|
    finish_bind_eq (keyAt_some hk) rfl

theorem exec_rplchk_of_accepted (accepted : tscAccepted nh k.tscHi nl k.tscLo = true) :
    exec .rplchk s = .next (s.withTsc h k nl nh) := by
  rw [exec_rplchk hhi hlo hkey hk, if_pos accepted]
  exact finish_of_ok (acceptTsc_run hk)

theorem exec_rplchk_of_replay (hsu : s.ctx.suite = some su) (hr : replayReason su = some r)
    (replay : tscAccepted nh k.tscHi nl k.tscLo = false) : exec .rplchk s = .next (dropPath r s) := by
  rw [exec_rplchk hhi hlo hkey hk, if_neg (Bool.eq_false_iff.1 replay)]
  exact finish_replayDetected hsu hr

end Reads

end Sys2Proof.Machine

namespace Sys2Proof.Proofs
open Sys2Proof.Machine

/-- Settles O44: the comparison's two branches, the candidate stored or the drop of the suite. -/
theorem rplchk : Obligations.Rplchk := by
  refine ⟨rfl, fun s h k nh nl su r hhi hlo hkey hk hsu row => ?_⟩
  have test : tscAccepted nh k.tscHi nl k.tscLo = true ↔ _ := tscAccepted_iff.trans (or_congr_right and_comm)
  split_ifs with greaterOrWrap
  · exact exec_rplchk_of_accepted hhi hlo hkey hk (test.2 greaterOrWrap)
  · exact exec_rplchk_of_replay hhi hlo hkey hk hsu (replayReason_of_row row) (Bool.eq_false_iff.2 (mt test.1 greaterOrWrap))

/-- Settles O45: the acceptance left the candidate in the record, and no value is accepted over itself. -/
theorem sameTscRejected : Obligations.SameTscRejected := by
  intro s t u h su r e accepted hkey hks ukey uhi ulo usu row
  obtain ⟨h', k, nh, nl, key, hhi, hlo, hk, rfl⟩ := storesCandidate_of_accepted e accepted
  obtain rfl : h = h' := Option.some.inj (hkey.symm.trans key)
  have stored : u.ks[h]? = some { k with tscLo := nl, tscHi := nh } := by
    rw [hks]
    exact withTsc_ks_get hk
  exact exec_rplchk_of_replay (uhi.trans hhi) (ulo.trans hlo) ukey stored usu (replayReason_of_row row)
    (tscAccepted_self nh nl)

end Sys2Proof.Proofs
end

section
/-! PROOFS. The fragment hand-off: the group test, the answer the hand-over takes, and what DEFRAG makes of each answer (R266,
R267, R269 to R271). -/
namespace Sys2Proof.Machine

variable {s : State} {f : Frame} {b : List Byte} {a : Answer} {env : Env}

/-! ### The free answer (R268, R357) -/

theorem submitFrame_free_of_some (f : Frame) (h : s.env.answers = [])
    (hb : Config.reassemblerAnswer s.env.freeCount = some b) :
    (submitFrame f).run s
      = .ok (.complete b)
          { s with env := { s.env with freeCount := s.env.freeCount + 1, submitted := s.env.submitted ++ [f.packet] } } := by
  rw [submitFrame_free f h, hb]

theorem submitFrame_free_of_none (f : Frame) (h : s.env.answers = [])
    (hb : Config.reassemblerAnswer s.env.freeCount = none) :
    (submitFrame f).run s
      = .ok .incomplete
          { s with env := { s.env with freeCount := s.env.freeCount + 1, submitted := s.env.submitted ++ [f.packet] } } := by
  rw [submitFrame_free f h, hb]

/-! ### The two answers (R269, R270, R271) -/

theorem finish_takeAnswer_complete (hf : s.frm = some f) :
    finish (takeAnswer (.complete b)) s = .next { s with frm := some (f.replace b), stage := .defragmented } :=
  finish_bind_eq (replaceFrame_some b hf) <| finish_of_ok (setStage_apply _ _)

/-- REPLENISH leaves before the drop's own event (R270, R271). -/
theorem finish_takeAnswer_incomplete :
    finish (takeAnswer .incomplete) s
      = .next (dropPath .reassemblyIncomplete { s with out := s.out ++ [.replenish] }) :=
  finish_bind_eq (emit_apply _ s) <| finish_of_raise (raise_apply _ _)

/-! ### DEFRAG (R266, R267) -/

/-- A group-addressed fragment never reaches the reassembler (R267). -/
theorem exec_defrag_of_group (group : s.ctx.isMcast = some true) :
    exec .defrag s = .next (dropPath .malformedMcastFragment s) :=
  finish_bind_eq (readCtx_some group) <| finish_of_raise (run_bind_of_error (require_false rfl _ s))

/-- Any other goes on with the answer that its hand-over takes from the environment (R266). -/
theorem exec_defrag_of_submitted (single : s.ctx.isMcast = some false) (hf : s.frm = some f)
    (taken : (submitFrame f).run s = .ok a { s with env := env }) :
    exec .defrag s = finish (takeAnswer a) { s with env := env } :=
  finish_bind_eq (readCtx_some single) <| finish_bind_eq (require_true rfl _ s) <|
    finish_bind_eq (theFrame_some hf) <| finish_bind_of_ok taken

end Sys2Proof.Machine

namespace Sys2Proof.Proofs
open Sys2Proof.Machine

/-- Settles O46: the group test, then the answer taken, listed or free, and the branch of that answer. -/
theorem defrag : Obligations.Defrag := by
  intro s f m a env hf hm answer
  cases m with
  | true => exact exec_defrag_of_group hm
  | false =>
    have taken : (submitFrame f).run s = .ok a { s with env := env } := by
      cases listed : s.env.answers with
      | cons x rest =>
        rw [listed] at answer
        obtain ⟨rfl, rfl⟩ := answer
        exact submitFrame_listed f listed
      | nil =>
        rw [listed] at answer
        obtain ⟨free, rfl⟩ := answer
        cases value : Config.reassemblerAnswer s.env.freeCount with
        | some b =>
          rw [value] at free
          obtain rfl := free
          exact submitFrame_free_of_some f listed value
        | none =>
          rw [value] at free
          obtain rfl := free
          exact submitFrame_free_of_none f listed value
    rw [if_neg Bool.false_ne_true, exec_defrag_of_submitted hm hf taken]
    cases a with
    | complete b => exact finish_takeAnswer_complete hf
    | incomplete => exact finish_takeAnswer_incomplete

end Sys2Proof.Proofs
end

section
/-! PROOFS. The header translator: a header put before a payload, the address rows, the payload rows, and HDRXLT as a whole (R282,
R284, R286, R288, R290, R292, R294, R296). -/
namespace Sys2Proof.Machine

variable {s : State} {f : Frame}

/-! ### A string laid over a buffer: the parts of the result, and neighbouring writes (R75) -/

section Overlay
variable {buf v w : List Byte} {k n : Nat}

theorem take_overlay_of_le (h : k ≤ buf.length) (hn : n ≤ k) : (overlay buf k v).take n = buf.take n := by
  rw [overlay, List.append_assoc, List.take_append_of_le_length (by rw [List.length_take_of_le h]; exact hn),
    List.take_take, Nat.min_eq_left hn]

theorem take_overlay (h : k ≤ buf.length) : (overlay buf k v).take (k + v.length) = buf.take k ++ v :=
  List.take_left' (by rw [List.length_append, List.length_take_of_le h])

theorem drop_overlay (h : k ≤ buf.length) : (overlay buf k v).drop k = v ++ buf.drop (k + v.length) := by
  rw [overlay, List.append_assoc]
  exact List.drop_left' (List.length_take_of_le h)

theorem drop_overlay_of_le (h : k ≤ buf.length) (hn : k + v.length ≤ n) : (overlay buf k v).drop n = buf.drop n := by
  have covered : (buf.take k ++ v).length = k + v.length := by rw [List.length_append, List.length_take_of_le h]
  rw [overlay, List.drop_append, covered, List.drop_of_length_le (by omega), List.nil_append, List.drop_drop,
    Nat.add_sub_cancel' hn]

/-- A write that starts where the last one ended continues it. -/
theorem overlay_overlay_behind (h : k + v.length ≤ buf.length) :
    overlay (overlay buf k v) (k + v.length) w = overlay buf k (v ++ w) := by
  rw [overlay, take_overlay (by omega), drop_overlay_of_le (by omega) (by omega), overlay, List.length_append,
    ← Nat.add_assoc, List.append_assoc (buf.take k)]

/-- A write that ends where the last one started precedes it. -/
theorem overlay_overlay_before (h : k + v.length ≤ buf.length) :
    overlay (overlay buf (k + v.length) w) k v = overlay buf k (v ++ w) := by
  rw [overlay, take_overlay_of_le h (by omega), drop_overlay h, overlay, List.length_append, ← Nat.add_assoc]
  simp only [List.append_assoc]

end Overlay

theorem Frame.write_write_behind {o : Nat} {v w : List Byte} (h : f.head + o + v.length ≤ f.buf.length) :
    (f.write o v).write (o + v.length) w = f.write o (v ++ w) := by
  simp only [Frame.write, ← Nat.add_assoc, overlay_overlay_behind h]

theorem Frame.write_write_before {o : Nat} {v w : List Byte} (h : f.head + o + v.length ≤ f.buf.length) :
    (f.write (o + v.length) w).write o v = f.write o (v ++ w) := by
  simp only [Frame.write, ← Nat.add_assoc, overlay_overlay_before h]

/-! ### A header put before a payload (R296) -/

theorem Frame.live_advance (f : Frame) (n : Nat) : (f.advance n).live = f.live.drop n := by
  rw [Frame.live, Frame.live, List.drop_take, List.drop_drop]
  rfl

/-- The frame with `v` written where it ends at offset `q`, and the head moved to its first byte. -/
def Frame.prepend (f : Frame) (v : List Byte) (q : Nat) : Frame := (f.write (q - v.length) v).advance (q - v.length)

@[simp] theorem Frame.prepend_head (f : Frame) (v : List Byte) (q : Nat) :
    (f.prepend v q).head = f.head + (q - v.length) := rfl
@[simp] theorem Frame.prepend_len (f : Frame) (v : List Byte) (q : Nat) :
    (f.prepend v q).len = f.len - (q - v.length) := rfl
@[simp] theorem Frame.prepend_info (f : Frame) (v : List Byte) (q : Nat) : (f.prepend v q).info = f.info := rfl

section Prepend
variable {v : List Byte} {q : Nat} (hw : f.head + f.len ≤ f.buf.length) (hv : v.length ≤ q) (hq : q ≤ f.len)
include hw hv hq

/-- The result is the header and what stood from `q` on. -/
theorem Frame.prepend_live : (f.prepend v q).live = v ++ f.live.drop q := by
  have llength := Frame.live_length hw
  rw [Frame.prepend, Frame.live_advance, Frame.live_write hw (by omega), drop_overlay (by omega), Nat.sub_add_cancel hv]

theorem Frame.prepend_buf_length : (f.prepend v q).buf.length = f.buf.length := overlay_length (by omega)

/-- No byte of the buffer from `q` on is written. -/
theorem Frame.prepend_buf_drop : (f.prepend v q).buf.drop (f.head + q) = f.buf.drop (f.head + q) :=
  drop_overlay_of_le (by omega) (by omega)

theorem wf_prepend : Memory.wf (some (f.prepend v q)) = true :=
  wf_advance (wf_write (wf_some.2 hw) (by omega)) (by rw [Frame.write_len]; omega)

end Prepend

/-! ### The payload rows (R290, R292, R294) -/

/-- An operation's first part completes, and the rest answers. -/
theorem run_bind_eq {α β : Type} {m : Act α} {g : α → Act β} {t : State} {x : α} {o : EStateM.Result Stop State β}
    (first : m.run s = .ok x t) (rest : (g x).run t = o) : (m >>= g).run s = o :=
  (run_bind_of_ok first).trans rest

/-- What stands before the kept part of the payload: the address pair, and the payload's length unless its type is kept. -/
def ethernetHeader (pass : Bool) (da sa : Addr) (n : Nat) : List Byte :=
  da.toList ++ sa.toList ++ (if pass = true then [] else bytesBe16 (BitVec.ofNat 16 n))

theorem ethernetHeader_length (pass : Bool) (da sa : Addr) (n : Nat) :
    (ethernetHeader pass da sa n).length = if pass = true then 12 else 14 := by
  cases pass
  · rfl
  · rfl

section Rows
variable {da sa : Addr} {p : Nat} (hf : s.frm = some f) (hw : f.head + f.len ≤ f.buf.length)
  (hda : s.ctx.da = some da) (hsa : s.ctx.sa = some sa)
include hf hw hda hsa

/-- The address pair is one header of twelve bytes. -/
theorem writeEthernet_run {nh : Nat} (h : nh + 12 ≤ f.len) :
    (writeEthernet nh).run s = .ok () { s with frm := some ((f.write nh (da.toList ++ sa.toList)).advance nh) } := by
  have dalength : da.toList.length = 6 := rfl
  have salength : sa.toList.length = 6 := rfl
  rw [← Frame.write_write_behind (by omega)]
  exact run_bind_eq (readCtx_some hda) <| run_bind_eq (readCtx_some hsa) <|
    run_bind_eq (memWrite_of_fits hf hw (by omega)) <|
    run_bind_eq (memWrite_of_fits rfl (wf_some.1 (wf_write (wf_some.2 hw) (by omega))) (by rw [Frame.write_len]; omega)) <|
    advanceHead_of_fits rfl (by simp only [Frame.write_len]; omega)

/-- XLT.PASS puts the pair before the embedded type, the last two of the payload's eight bytes (R290). -/
theorem xltPassAt_run (low : 6 ≤ p) (fits : p + 6 ≤ f.len) :
    (xltPassAt p).run s = .ok () { s with frm := some (f.prepend (da.toList ++ sa.toList) (p + 6)) } :=
  writeEthernet_run hf hw hda hsa (by omega)

/-- XLT.LEN and XLT.RAW put the pair and the payload's length before the whole payload (R292, R294). -/
theorem lengthFraming_run (low : 14 ≤ p) (fits : p ≤ f.len) :
    (lengthFraming p).run s
      = .ok () { s with frm := some (f.prepend (da.toList ++ sa.toList ++ bytesBe16 (BitVec.ofNat 16 (f.len - p))) p) } := by
  have pair : (da.toList ++ sa.toList).length = 12 := rfl
  have length : (bytesBe16 (BitVec.ofNat 16 (f.len - p))).length = 2 := rfl
  have form := wf_some.1 (wf_write (off := p - 14 + 12) (wf_some.2 hw) (v := bytesBe16 (BitVec.ofNat 16 (f.len - p))) (by omega))
  rw [Frame.prepend, List.length_append, pair, length, ← Frame.write_write_before (by omega)]
  exact run_bind_eq (frmLen_some hf) <| run_bind_eq (memWrite_of_fits hf hw (by omega)) <|
    writeEthernet_run (s := { s with frm := some _ }) rfl form hda hsa (by rw [Frame.write_len]; omega)

/-- The row of the `xlt-snap` group: XLT.PASS, or one of the two that put a length in front (R288). -/
theorem runSnap_run {r : SnapRow} {pass : Bool} (hpass : r = .pass ↔ pass = true) (low : 14 ≤ p) (fits : p + 6 ≤ f.len) :
    (runSnap r p).run s
      = .ok () { s with
          frm := some (f.prepend (ethernetHeader pass da sa (f.len - p)) (if pass = true then p + 6 else p)) } := by
  unfold ethernetHeader
  cases r
  case pass =>
    rw [if_pos (hpass.1 rfl), if_pos (hpass.1 rfl), List.append_nil]
    exact xltPassAt_run hf hw hda hsa (by omega) fits
  case len | raw =>
    rw [if_neg (mt hpass.2 nofun), if_neg (mt hpass.2 nofun)]
    exact lengthFraming_run hf hw hda hsa low (by omega)

end Rows

/-! ### The address rows (R282) -/

/-- The address field at an offset (R15, R80). -/
def addrAt (b : List Byte) (o : Nat) : Addr :=
  ⟨byteAt b o, byteAt b (o + 1), byteAt b (o + 2), byteAt b (o + 3), byteAt b (o + 4), byteAt b (o + 5)⟩

/-- The state with the address pair of the Ethernet frame written. -/
def State.withAddresses (s : State) (da sa : Addr) : State := { s with ctx := { s.ctx with da := some da, sa := some sa } }

section Addresses
variable {o o' : Nat} (hf : s.frm = some f) (hw : f.head + f.len ≤ f.buf.length)
include hf hw

theorem setAddresses_run (h : o + 6 ≤ f.len) (h' : o' + 6 ≤ f.len) :
    (setAddresses o o').run s = .ok () (s.withAddresses (addrAt f.live o) (addrAt f.live o')) :=
  run_bind_eq (readAddr_of_fits hf hw h) <| run_bind_eq (readAddr_of_fits hf hw h') rfl

/-- A row by itself is dropped where the frame ends before the later of its two fields does. -/
theorem finish_setAddresses {n : Nat} (hn : n = max o o' + 6) :
    finish (setAddresses o o') s
      = .next (if f.len < n then dropPath .malformedTruncated s
          else s.withAddresses (addrAt f.live o) (addrAt f.live o')) := by
  by_cases first : f.len < o + 6
  · rw [if_pos (by omega)]
    exact finish_of_raise (run_bind_of_error (readAddr_of_short hf first))
  · by_cases second : f.len < o' + 6
    · rw [if_pos (by omega)]
      exact finish_bind_eq (readAddr_of_fits hf hw (by omega)) <|
        finish_of_raise (run_bind_of_error (readAddr_of_short hf second))
    · rw [if_neg (by omega)]
      exact finish_of_ok (setAddresses_run hf hw (by omega) (by omega))

end Addresses

/-! ### What HDRXLT computes from the frame (R110, R284, R288) -/

theorem headerLength_eq_of_ds (fc : BitVec 16) :
    headerLength fc = if fc.getLsbD 8 = true ∧ fc.getLsbD 9 = true then 30 else 24 := by
  simp only [headerLength_eq, Bool.and_eq_true]

/-- The length of the IV region of a frame whose header ends at `h`, 0 of an unprotected one (R116, R284). -/
def ivLength (fc : BitVec 16) (b : List Byte) (h : Nat) : Nat :=
  if fc.getLsbD 14 = true then (if (byteAt b (h + 3)).getLsbD 5 = true then 8 else 4) else 0

theorem ivLength_of_protected {fc : BitVec 16} {b : List Byte} {h : Nat} (isProtected : fc.getLsbD 14 = true) :
    4 ≤ ivLength fc b h := by
  rw [ivLength, if_pos isProtected]
  split_ifs <;> omega

section Payload
variable {fc : BitVec 16} {h : Nat} (hf : s.frm = some f)
include hf

theorem readIvLen_of_short (isProtected : fc.getLsbD 14 = true) (short : f.len < h + 4) :
    (readIvLen fc h).run s = .error (.raise .malformedTruncated) s := by
  rw [readIvLen, fcProtected, if_pos isProtected]
  exact run_bind_of_error (memRead_of_short hf (by omega))

variable (hw : f.head + f.len ≤ f.buf.length)
include hw

theorem readIvLen_of_fits (fits : fc.getLsbD 14 = true → h + 4 ≤ f.len) :
    (readIvLen fc h).run s = .ok (ivLength fc f.live h) s := by
  unfold readIvLen ivLength fcProtected
  by_cases isProtected : fc.getLsbD 14 = true
  · have inside := fits isProtected
    rw [if_pos isProtected, if_pos isProtected]
    refine run_bind_eq (memRead_of_fits hf hw (by omega)) ?_
    rw [byteAt_slice f (by omega) (by omega), Nat.add_zero]
    rfl
  · rw [if_neg isProtected, if_neg isProtected]
    rfl

/-- A frame that holds its payload's eight bytes holds its IV. -/
theorem readIvLen_of_fits_payload (fits : h + ivLength fc f.live h + 8 ≤ f.len) :
    (readIvLen fc h).run s = .ok (ivLength fc f.live h) s :=
  readIvLen_of_fits hf hw fun isProtected => by
    have atLeast := ivLength_of_protected (b := f.live) (h := h) isProtected
    omega

/-- The payload of a frame that holds its eight bytes (R286). -/
theorem payloadOffset_run (hfc : fc = byteAt f.live 1 ++ byteAt f.live 0)
    (fits : headerLength fc + ivLength fc f.live (headerLength fc) + 8 ≤ f.len) :
    payloadOffset.run s = .ok (headerLength fc + ivLength fc f.live (headerLength fc)) s := by
  have readIv := readIvLen_of_fits_payload hf hw fits
  have long : headerLength fc ≤ f.len := by omega
  subst hfc
  exact run_bind_eq (frmLen_some hf) <| run_bind_eq (readFc_of_fits hf hw (by omega)) <|
    run_bind_eq (require_true (decide_eq_true long) _ _) <| run_bind_eq readIv <|
    run_bind_eq (require_true (decide_eq_true fits) _ _) rfl

/-- Each row of the `xlt-addr` group reads fields of the header that its own bits make long enough (R110, R282). -/
theorem runXltAddr_run {da sa : Addr} (long : headerLength fc ≤ f.len)
    (hda : da = if fc.getLsbD 8 = true then addrAt f.live 16 else addrAt f.live 4)
    (hsa : sa = if fc.getLsbD 9 = true then (if fc.getLsbD 8 = true then addrAt f.live 24 else addrAt f.live 16)
      else addrAt f.live 10) :
    (runXltAddr (xltAddrRow fc)).run s = .ok () (s.withAddresses da sa) := by
  have three : 24 ≤ f.len := (headerLength_ge fc).trans long
  rw [xltAddrRow_eq, hda, hsa]
  split_ifs with toDs fromDs fromDs
  · have four : 30 ≤ f.len := by rwa [headerLength_eq_of_ds, if_pos ⟨toDs, fromDs⟩] at long
    exact setAddresses_run hf hw (o := 16) (o' := 24) (by omega) four
  · exact setAddresses_run hf hw (o := 16) (o' := 10) (by omega) (by omega)
  · exact setAddresses_run hf hw (o := 4) (o' := 16) (by omega) (by omega)
  · exact setAddresses_run hf hw (o := 4) (o' := 10) (by omega) (by omega)

end Payload

/-! ### The `xlt-snap` word of a payload (R121, R288) -/

/-- Words of the same two widths are equal part by part. -/
theorem append_eq_append_iff {m n : Nat} (a c : BitVec m) (b d : BitVec n) : a ++ b = c ++ d ↔ a = c ∧ b = d := by
  have h := extractLsb'_eq_append_iff (lo := 0) (a ++ b) c d
  rwa [BitVec.extractLsb'_eq_self, Nat.zero_add, BitVec.extractLsb'_append_eq_left, BitVec.extractLsb'_append_eq_right] at h

theorem be64_header (b : List Byte) :
    (be64 b).extractLsb' 16 48 = byteAt b 0 ++ byteAt b 1 ++ byteAt b 2 ++ byteAt b 3 ++ byteAt b 4 ++ byteAt b 5 := by
  rw [be64, BitVec.extractLsb'_append_eq_of_le (by decide)]
  exact BitVec.extractLsb'_append_eq_left

theorem be64_type (b : List Byte) : (be64 b).extractLsb' 0 16 = byteAt b 6 ++ byteAt b 7 := by
  refine (extractLsb'_eq_append_iff (m := 8) (n := 8) _ _ _).2 ⟨?_, BitVec.extractLsb'_append_eq_right⟩
  rw [be64, BitVec.extractLsb'_append_eq_of_le (by decide)]
  exact BitVec.extractLsb'_append_eq_right

/-- The six bytes of the RFC 1042 header, as a number and as bytes. -/
theorem rfc1042_iff (a b c d e g : Byte) :
    a ++ b ++ c ++ d ++ e ++ g = (0xAAAA03000000 : BitVec 48) ↔ [a, b, c, d, e, g] = [0xAA, 0xAA, 0x03, 0x00, 0x00, 0x00] := by
  rw [show (0xAAAA03000000 : BitVec 48)
    = (0xAA : Byte) ++ (0xAA : Byte) ++ (0x03 : Byte) ++ (0x00 : Byte) ++ (0x00 : Byte) ++ (0x00 : Byte) from rfl]
  simp only [append_eq_append_iff, List.cons.injEq, and_true, and_assoc]

theorem take_six_drop {b : List Byte} {p : Nat} (h : p + 6 ≤ b.length) :
    (b.drop p).take 6
      = [byteAt b p, byteAt b (p + 1), byteAt b (p + 2), byteAt b (p + 3), byteAt b (p + 4), byteAt b (p + 5)] := by
  have byte : ∀ i, (hi : i < b.length) → byteAt b i = b[i] := fun i hi => List.getD_eq_getElem b 0 hi
  rw [byte p, byte (p + 1), byte (p + 2), byte (p + 3), byte (p + 4), byte (p + 5)]
  iterate 6 rw [List.drop_eq_getElem_cons (by omega), List.take_succ_cons]
  rw [List.take_zero]

theorem snapRow_eq_pass_iff {stt : BitVec 16} {w : BitVec 64} :
    snapRow stt w = .pass
      ↔ w.extractLsb' 16 48 = 0xAAAA03000000 ∧ w.extractLsb' 0 16 ≠ 0x8137 ∧ w.extractLsb' 0 16 ≠ stt := by
  rw [snapRow_eq, ← not_or]
  split_ifs with rfc1042 long
  · exact iff_of_false nofun fun ⟨_, short⟩ => short long
  · exact iff_of_true rfl ⟨rfc1042, long⟩
  · exact iff_of_false nofun fun ⟨header, _⟩ => rfc1042 header
  · exact iff_of_false nofun fun ⟨header, _⟩ => rfc1042 header

/-- The payload at `p` starts with the header of RFC 1042 and a type that is neither of the two long ones (R288). -/
def keepsType (stt : BitVec 16) (b : List Byte) (p : Nat) : Bool :=
  decide ((b.drop p).take 6 = [0xAA, 0xAA, 0x03, 0x00, 0x00, 0x00])
    && decide (byteAt b (p + 6) ++ byteAt b (p + 7) ≠ (0x8137 : BitVec 16))
    && decide (byteAt b (p + 6) ++ byteAt b (p + 7) ≠ stt)

/-- The word of the payload's eight bytes selects XLT.PASS just then. -/
theorem snapRow_payload_eq_pass_iff {stt : BitVec 16} {p : Nat} (hw : f.head + f.len ≤ f.buf.length) (fits : p + 8 ≤ f.len) :
    snapRow stt (be64 (f.slice p 8)) = .pass ↔ keepsType stt f.live p = true := by
  have byte : ∀ i, i < 8 → byteAt (f.slice p 8) i = byteAt f.live (p + i) := fun i hi => byteAt_slice f fits hi
  rw [snapRow_eq_pass_iff, be64_header, be64_type, byte 0, byte 1, byte 2, byte 3, byte 4, byte 5, byte 6, byte 7, rfc1042_iff,
    keepsType, take_six_drop (by rw [Frame.live_length hw]; omega), Bool.and_eq_true, Bool.and_eq_true, decide_eq_true_eq,
    decide_eq_true_eq, decide_eq_true_eq, and_assoc, Nat.add_zero]
  all_goals omega

/-! ### HDRXLT (R296) -/

/-- HDRXLT behind its address row, for a frame-control word and the frame's length: the payload's place, the size test, and the
payload row. -/
def translatePayload (fc : BitVec 16) (l : Nat) : Act Unit := do
  let ivLen ← readIvLen fc (headerLength fc)
  let p := headerLength fc + ivLen
  require (p + 8 ≤ l) .malformedTruncated
  let b ← memRead p 8
  let par ← look State.par
  runSnap (snapRow par.sttType2 (be64 b)) p
  setStage .headerTranslated

section Hdrxlt
variable {fc : BitVec 16} (hf : s.frm = some f) (hw : f.head + f.len ≤ f.buf.length)
  (hfc : fc = byteAt f.live 1 ++ byteAt f.live 0)
include hf hw hfc

/-- A frame shorter than its header is dropped before an address is read (R286). -/
theorem exec_hdrxlt_of_short_header (short : f.len < headerLength fc) :
    exec .hdrxlt s = .next (dropPath .malformedTruncated s) := by
  refine finish_bind_eq (frmLen_some hf) ?_
  by_cases two : f.len < 2
  · exact finish_of_raise (run_bind_of_error (readFc_of_short hf two))
  · subst hfc
    exact finish_bind_eq (readFc_of_fits hf hw (by omega)) <|
      finish_of_raise (run_bind_of_error (require_false (decide_eq_false (by omega)) _ _))

variable {da sa : Addr} (long : headerLength fc ≤ f.len)
  (hda : da = if fc.getLsbD 8 = true then addrAt f.live 16 else addrAt f.live 4)
  (hsa : sa = if fc.getLsbD 9 = true then (if fc.getLsbD 8 = true then addrAt f.live 24 else addrAt f.live 16)
    else addrAt f.live 10)
include long hda hsa

/-- A frame that holds its header goes on with the addresses written. -/
theorem exec_hdrxlt_of_header : exec .hdrxlt s = finish (translatePayload fc f.len) (s.withAddresses da sa) := by
  have three := headerLength_ge fc
  have addresses := runXltAddr_run hf hw long hda hsa
  subst hfc
  exact finish_bind_eq (frmLen_some hf) <| finish_bind_eq (readFc_of_fits hf hw (by omega)) <|
    finish_bind_eq (require_true (decide_eq_true long) _ _) <| finish_bind_eq addresses rfl

variable {p : Nat} (hp : p = headerLength fc + ivLength fc f.live (headerLength fc))
include hp

/-- Without its IV or its payload's eight bytes it is dropped (R286). -/
theorem exec_hdrxlt_of_short_payload (short : f.len < p + 8) :
    exec .hdrxlt s = .next (dropPath .malformedTruncated (s.withAddresses da sa)) := by
  rw [exec_hdrxlt_of_header hf hw hfc long hda hsa]
  subst hp
  by_cases cut : fc.getLsbD 14 = true ∧ f.len < headerLength fc + 4
  · exact finish_of_raise (run_bind_of_error (readIvLen_of_short hf cut.1 cut.2))
  · refine finish_bind_eq (readIvLen_of_fits hf hw fun h => Nat.not_lt.1 fun shorter => cut ⟨h, shorter⟩) ?_
    exact finish_of_raise (run_bind_of_error (require_false (decide_eq_false (Nat.not_le.2 short)) _ _))

/-- With them it becomes the Ethernet frame of its payload row (R290, R292, R294). -/
theorem exec_hdrxlt_of_fits {pass : Bool} (fits : p + 8 ≤ f.len)
    (hpass : pass = keepsType s.par.sttType2 f.live p) :
    exec .hdrxlt s = .next { s.withAddresses da sa with
      frm := some (f.prepend (ethernetHeader pass da sa (f.len - p)) (if pass = true then p + 6 else p))
      stage := .headerTranslated } := by
  have three := headerLength_ge fc
  have row : snapRow s.par.sttType2 (be64 (f.slice p 8)) = .pass ↔ pass = true := hpass ▸ snapRow_payload_eq_pass_iff hw fits
  have readIv := readIvLen_of_fits_payload (s := s.withAddresses da sa) (fc := fc) hf hw (hp ▸ fits)
  rw [exec_hdrxlt_of_header hf hw hfc long hda hsa]
  subst hp
  exact finish_bind_eq readIv <| finish_bind_eq (require_true (decide_eq_true fits) _ _) <|
    finish_bind_eq (memRead_of_fits hf hw fits) <| finish_bind_eq (look_apply _ _) <|
    finish_bind_eq (runSnap_run (s := s.withAddresses da sa) hf hw rfl rfl row (by omega) (by omega)) rfl

end Hdrxlt

end Sys2Proof.Machine

namespace Sys2Proof.Proofs
open Sys2Proof.Machine

/-- Settles O47: each row is the pair of its two fields. -/
theorem xltAddressRows : Obligations.XltAddressRows := by
  rintro s f _ hf form rfl
  rw [hf] at form
  have hw := wf_some.1 form
  exact ⟨finish_setAddresses hf hw rfl, finish_setAddresses hf hw rfl, finish_setAddresses hf hw rfl,
    finish_setAddresses hf hw rfl⟩

/-- Settles O48: no whole header, no whole IV and payload head, or the translated frame. -/
theorem hdrxlt : Obligations.Hdrxlt := by
  intro s f L fc hd pay q da sa pass c addr hf form hL hfc hhd hda hsa hpay hpass hq hc
  subst hL hq hc
  rw [← headerLength_eq_of_ds] at hhd
  subst hhd
  rw [hf] at form
  have hw := wf_some.1 form
  have three := headerLength_ge fc
  have low : headerLength fc ≤ pay := hpay ▸ Nat.le_add_right _ _
  have room : (ethernetHeader pass da sa (f.len - pay)).length ≤ if pass = true then pay + 6 else pay := by
    rw [ethernetHeader_length]
    split_ifs <;> omega
  have moved : (f.prepend (ethernetHeader pass da sa (f.len - pay)) (if pass = true then pay + 6 else pay)).head
      = f.head + if pass = true then pay - 6 else pay - 14 := by
    rw [Frame.prepend_head, ethernetHeader_length]
    split_ifs <;> omega
  refine ⟨exec_hdrxlt_of_short_header hf hw hfc, fun long => exec_hdrxlt_of_short_payload hf hw hfc long hda hsa hpay,
    fun long fits => ⟨_, exec_hdrxlt_of_fits hf hw hfc long hda hsa hpay fits hpass, ?_⟩⟩
  have inside : (if pass = true then pay + 6 else pay) ≤ f.len := by split_ifs <;> omega
  exact ⟨Frame.prepend_live hw room inside, moved, Frame.prepend_buf_length hw room inside,
    Frame.prepend_buf_drop hw room inside, rfl, wf_prepend hw room inside⟩

/-- Settles O49: the pair before the embedded type, or the pair and the length before the payload. -/
theorem xltPayloadRows : Obligations.XltPayloadRows := by
  intro s f L fc hd pay da sa hf form hL hfc hhd hpay hda hsa fits
  subst hL
  rw [← headerLength_eq_of_ds] at hhd
  subst hhd
  rw [hf] at form
  have hw := wf_some.1 form
  have three := headerLength_ge fc
  have low : headerLength fc ≤ pay := hpay ▸ Nat.le_add_right _ _
  have offset : payloadOffset.run s = .ok pay s := hpay ▸ payloadOffset_run hf hw hfc (hpay ▸ fits)
  have pair : (da.toList ++ sa.toList).length = 12 := rfl
  have framed := lengthFraming_run hf hw hda hsa (p := pay) (by omega) (by omega)
  have header : (da.toList ++ sa.toList ++ bytesBe16 (BitVec.ofNat 16 (f.len - pay))).length = 14 := rfl
  refine ⟨⟨_, finish_bind_eq offset (finish_of_ok (xltPassAt_run hf hw hda hsa (by omega) (by omega))), rfl, ?_,
      Frame.prepend_live hw (by omega) (by omega)⟩,
    ⟨_, finish_bind_eq offset (finish_of_ok framed), finish_bind_eq offset (finish_of_ok framed), rfl, ?_,
      Frame.prepend_live hw (by omega) (by omega)⟩⟩
  · rw [Frame.prepend_len, pair]
    omega
  · rw [Frame.prepend_len, header]
    omega

end Sys2Proof.Proofs
end


section
/-! PROOFS. The end of a pass: MGMT_DISPATCH and DELIVER, and that every pass comes to its end, because each of its operations
lowers the measure and leaves the host's schedule as it is (R311, R314, R316, R320, R324, R435). -/
namespace Sys2Proof.Machine

variable {α β : Type} {s t : State}

/-! ### The terminal operations (R316, R324) -/

theorem endDelivered_run (s : State) :
    endDelivered.run s = .ok () { s with frm := none, stage := .delivered, lock := false } := rfl

theorem exec_mgmtDispatch {f : Frame} (hf : s.frm = some f) :
    exec .mgmtDispatch s
      = .next { s with out := s.out ++ [.mgmtDispatch f.packet], frm := none, stage := .delivered, lock := false } :=
  finish_bind_eq (theFrame_some hf) <| finish_bind_eq (emit_apply _ _) <| finish_of_ok (endDelivered_run _)

/-- A frame that ROUTE has not moved into its destination's queue is handed out (R324). -/
theorem outgoing_of_unqueued {r : Route} {f : Frame} (hr : ∀ i, r ≠ .queuedSta i) (hf : s.frm = some f) :
    (outgoing r).run s = .ok (some f.packet) s := by
  cases r with
  | queuedSta i => exact absurd rfl (hr i)
  | toStack | relayFlood | relayUcast _ | queuedMcast => exact run_bind_of_ok (theFrame_some hf)

/-- DELIVER, once the route stands in `u` and says which frame leaves. -/
theorem exec_deliver {u : State} {r : Route} {b : Bool} {o : Option Packet}
    (routed : (stationRoute s.cfg.apMode).run s = .ok () u) (hr : u.ctx.route = some r) (hb : u.ctx.toStack = some b)
    (leaving : (outgoing r).run u = .ok o u) :
    exec .deliver s
      = .next { u with out := u.out ++ [.deliver o r b], frm := none, stage := .delivered, lock := false } :=
  finish_bind_eq (look_apply _ _) <| finish_bind_eq routed <| finish_bind_eq (readCtx_some hr) <|
    finish_bind_eq (readCtx_some hb) <| finish_bind_eq leaving <| finish_bind_eq (emit_apply _ _) <|
    finish_of_ok (endDelivered_run _)

/-- In access-point mode the route is the one that ROUTE left (R320). -/
theorem stationRoute_of_apMode (ap : s.cfg.apMode = true) : (stationRoute s.cfg.apMode).run s = .ok () s := by
  rw [ap]
  rfl

/-- Outside it the route is LOCAL, to the stack (R324). -/
theorem stationRoute_of_station (ap : s.cfg.apMode = false) :
    (stationRoute s.cfg.apMode).run s
      = .ok () { s with ctx := { s.ctx with route := some .toStack, toStack := some true } } := by
  rw [ap]
  rfl

/-! ### What an action has done wherever it completes -/

/-- Wherever the action starts, `P` holds where it completes. -/
abbrev Act.Leaves (m : Act α) (P : State → Prop) : Prop :=
  ∀ s, m.Ends s (fun _ t => P t) (fun _ => True) True

/-- What comes before the last part plays no role. -/
theorem leaves_bind {P : State → Prop} {m : Act β} {g : β → Act α} (h : ∀ b, (g b).Leaves P) : (m >>= g).Leaves P := by
  refine fun s => ends_bind ?_
  unfold Act.Ends
  cases m.run s with
  | ok b u => exact h b u
  | error x u => cases x <;> trivial

/-- An operation that has not ended the pass has completed. -/
theorem Act.Leaves.of_going {P : State → Prop} {m : Act Unit} (leaves : m.Leaves P) (h : finish m s = .next t)
    (going : t.stage.quiet = false) : P t := by
  obtain done | ⟨r, u, -, rfl⟩ := finish_cases_of_ends (leaves s) h
  · exact done
  · cases going

theorem opMgmtDispatch_leaves : opMgmtDispatch.Leaves fun t => t.stage = .delivered :=
  leaves_bind fun _ => leaves_bind fun _ _ => ends_of_ok (endDelivered_run _) rfl

theorem opHdrxlt_leaves : opHdrxlt.Leaves fun t => t.stage = .headerTranslated :=
  leaves_bind fun _ => leaves_bind fun _ => leaves_bind fun _ => leaves_bind fun _ => leaves_bind fun _ =>
  leaves_bind fun _ => leaves_bind fun _ => leaves_bind fun _ => leaves_bind fun _ _ => ends_setStage rfl

theorem opRplchk_leaves : opRplchk.Leaves fun t => t.stage = .replayChecked := by
  refine leaves_bind fun hi => leaves_bind fun lo => leaves_bind fun k => leaves_bind fun old => ?_
  split
  · exact leaves_bind fun _ _ => ends_setStage rfl
  · exact leaves_bind fun _ => leaves_bind fun _ _ => ends_raise trivial

theorem opIvparse_leaves : opIvparse.Leaves fun t => t.ctx.iv.isSome = true :=
  leaves_bind fun _ => leaves_bind fun _ _ => ends_writeCtx rfl

theorem keepKey_leaves (k : Nat) : (keepKey (some k)).Leaves fun t => t.ctx.key.isSome = true :=
  fun _ => by
    unfold keepKey
    exact ends_writeCtx rfl

/-- The fallback completes only with a key (R210). -/
theorem opKeyselBcast_leaves : opKeyselBcast.Leaves fun t => t.ctx.key.isSome = true := by
  refine leaves_bind fun ki => leaves_bind fun ks => ?_
  cases ksLookup ks .group Addr.broadcast ki with
  | none => exact fun _ => ends_bind (ends_require trivial nofun)
  | some k => exact leaves_bind fun _ => keepKey_leaves k

theorem opKeysel_leaves : opKeysel.Leaves fun t => t.ctx.key.isSome = true := by
  refine leaves_bind fun _ => leaves_bind fun _ => leaves_bind fun k => ?_
  cases k with
  | none => exact opKeyselBcast_leaves
  | some k => exact keepKey_leaves k

theorem opCipherchk_leaves : opCipherchk.Leaves fun t => t.ctx.suite.isSome = true :=
  leaves_bind fun _ => leaves_bind fun _ => leaves_bind fun _ => leaves_bind fun _ _ => ends_writeCtx rfl

/-- DEC.NONE never completes (R217). -/
theorem opDecNone_leaves {P : State → Prop} : opDecNone.Leaves P := fun _ => ends_raise trivial

theorem opDecWep_leaves : opDecWep.Leaves fun t => t.ctx.decryptOk.isSome = true :=
  leaves_bind fun _ => leaves_bind fun _ => leaves_bind fun _ => leaves_bind fun _ => leaves_bind fun _ =>
  leaves_bind fun _ => leaves_bind fun _ => leaves_bind fun _ => leaves_bind fun _ _ =>
  ends_bind <| ends_writeCtx <| ends_require trivial fun _ => rfl

theorem opDecTkip_leaves : opDecTkip.Leaves fun t => t.ctx.decryptOk.isSome = true :=
  leaves_bind fun _ => leaves_bind fun _ => leaves_bind fun _ => leaves_bind fun _ => leaves_bind fun _ =>
  leaves_bind fun _ => leaves_bind fun _ => leaves_bind fun _ => leaves_bind fun _ => leaves_bind fun _ =>
  leaves_bind fun _ => leaves_bind fun _ => leaves_bind fun _ => leaves_bind fun _ => leaves_bind fun _ _ =>
  ends_writeCtx rfl

theorem opDecCcmp_leaves : opDecCcmp.Leaves fun t => t.ctx.decryptOk.isSome = true :=
  leaves_bind fun _ => leaves_bind fun _ => leaves_bind fun _ => leaves_bind fun _ => leaves_bind fun _ =>
  leaves_bind fun _ => leaves_bind fun _ => leaves_bind fun _ => leaves_bind fun _ => leaves_bind fun _ =>
  leaves_bind fun _ _ =>
  ends_bind <| ends_writeCtx <| ends_bind <| ends_require trivial fun _ =>
  ends_memWrite (fun _ => trivial) trivial fun _ _ _ => rfl

theorem opStrip_leaves : opStrip.Leaves fun t => t.stage = .decrypted :=
  leaves_bind fun _ => leaves_bind fun _ => leaves_bind fun _ _ => ends_setStage rfl

/-! ### The host's schedule during a pass (log 7) -/

/-- The hand-over takes an answer from the environment and leaves the host's schedule (R268, log 2). -/
theorem submitFrame_port {f : Frame} {E : State → Prop} {B : Prop} :
    (submitFrame f).Ends s (fun _ t => t.env.port = s.env.port) E B := by
  cases h : s.env.answers with
  | nil => exact ends_of_ok (submitFrame_free f h) rfl
  | cons x rest => exact ends_of_ok (submitFrame_listed f h) rfl

/-- DEFRAG leaves a reassembled frame and the schedule as it was (R269). -/
theorem opDefrag_completes :
    opDefrag.Ends s (fun _ t => t.stage = .defragmented ∧ t.env.port = s.env.port) (fun _ => True) True := by
  refine ends_bind <| ends_readCtx (fun _ => trivial) fun _ _ => ends_bind <| ends_require trivial fun _ => ?_
  refine ends_bind <| ends_theFrame (fun _ => trivial) fun f _ => ends_bind_of submitFrame_port fun a u port => ?_
  cases a with
  | complete b => exact ends_bind <| ends_replaceFrame (fun _ => trivial) fun _ _ => ends_setStage ⟨rfl, port⟩
  | incomplete => exact ends_bind <| ends_emit <| ends_raise trivial

theorem defrag_of_going (h : finish opDefrag s = .next t) (going : t.stage.quiet = false) :
    t.stage = .defragmented ∧ t.env.port = s.env.port := by
  obtain done | ⟨r, u, -, rfl⟩ := finish_cases_of_ends opDefrag_completes h
  · exact done
  · cases going

/-- An operation of the dispatcher writes nothing of the world outside (R236). -/
theorem port_of_confined {m : Act Unit} (hm : m.Confined) (h : finish m s = .next t) (going : t.stage.quiet = false) :
    t.env.port = s.env.port := by
  obtain ⟨c, x, g, rfl⟩ | ⟨r, c, u, -, -, rfl⟩ := finish_of_confined hm h
  · rfl
  · cases going

/-- An operation that completes writes the world outside only where it reassembles (R268). -/
theorem PassStep.env (h : PassStep s t) :
    t.env = s.env ∨ ((Filtered s ∨ s.stage = .decrypted) ∧ t.stage = .defragmented) := by
  cases h
  case defrag at_ _ _ => exact .inr ⟨at_, rfl⟩
  all_goals exact .inl rfl

/-! ### The measure (R311, R435) -/

theorem passLeft_of_quiet (h : s.stage.quiet = true) : passLeft s = 0 := by
  unfold passLeft
  cases e : s.stage
  case idle | delivered | dropped => rfl
  all_goals simp [e, Stage.quiet] at h

theorem one_le_decryptLeft (c : Ctx) : 1 ≤ decryptLeft c := by
  unfold decryptLeft
  split <;> decide

theorem decryptLeft_le_five (c : Ctx) : decryptLeft c ≤ 5 := by
  unfold decryptLeft
  split <;> decide

theorem passLeft_pos (active : s.stage.quiet = false) : 0 < passLeft s := by
  unfold passLeft
  cases e : s.stage
  case idle | delivered | dropped => simp [e, Stage.quiet] at active
  case headerTranslated =>
    dsimp only
    split <;> decide
  all_goals simp

theorem passLeft_of_classified (h : s.stage = .classified) : passLeft s = 6 + decryptLeft s.ctx := by
  simp only [passLeft, h]

theorem passLeft_of_apFiltered (h : s.stage = .apFiltered) : passLeft s = 5 + decryptLeft s.ctx := by
  simp only [passLeft, h]

/-- ROUTE and DELIVER at most. -/
theorem passLeft_le_of_headerTranslated (h : s.stage = .headerTranslated) : passLeft s ≤ 2 := by
  simp only [passLeft, h]
  split <;> decide

theorem passLeft_le (s : State) : passLeft s ≤ 13 := by
  have := decryptLeft_le_five s.ctx
  cases e : s.stage
  case headerTranslated => exact (passLeft_le_of_headerTranslated e).trans (by decide)
  all_goals
    simp only [passLeft, e]
    omega

/-- DECRYPT and an operation after it are still to come. -/
theorem six_le_passLeft (at_ : Filtered s) : 6 ≤ passLeft s := by
  have := one_le_decryptLeft s.ctx
  obtain ⟨h, -⟩ | h := at_
  · rw [passLeft_of_classified h]
    omega
  · rw [passLeft_of_apFiltered h]
    omega

/-- Inside DECRYPT the measure of the pass goes with that of DECRYPT. -/
theorem passLeft_lt_of_filtered (at_ : Filtered s) (stage : t.stage = s.stage)
    (left : decryptLeft t.ctx < decryptLeft s.ctx) : passLeft t < passLeft s := by
  obtain ⟨h, -⟩ | h := at_
  · rw [passLeft_of_classified h, passLeft_of_classified (stage.trans h)]
    omega
  · rw [passLeft_of_apFiltered h, passLeft_of_apFiltered (stage.trans h)]
    omega

section DecryptLeft
variable {c : Ctx} (iv : c.iv.isSome = true)
include iv

theorem decryptLeft_le_of_iv : decryptLeft c ≤ 4 := by
  unfold decryptLeft
  split <;> simp_all

theorem decryptLeft_le_of_key (key : c.key.isSome = true) : decryptLeft c ≤ 3 := by
  unfold decryptLeft
  split <;> simp_all

theorem decryptLeft_le_of_suite (key : c.key.isSome = true) (su : c.suite.isSome = true) : decryptLeft c ≤ 2 := by
  unfold decryptLeft
  split <;> simp_all

theorem decryptLeft_le_of_decryptOk (key : c.key.isSome = true) (su : c.suite.isSome = true)
    (ok : c.decryptOk.isSome = true) : decryptLeft c ≤ 1 := by
  unfold decryptLeft
  split <;> simp_all

end DecryptLeft

/-- An operation that goes on lowers the measure, if those that stay in their stage lower DECRYPT's. -/
theorem PassStep.passLeft_lt (h : PassStep s t) (active : s.stage.quiet = false)
    (decrypting : Filtered s → t.stage ≠ s.stage ∨ decryptLeft t.ctx < decryptLeft s.ctx) : passLeft t < passLeft s := by
  have inside : Filtered s → t.stage = s.stage → passLeft t < passLeft s := fun at_ stage =>
    passLeft_lt_of_filtered at_ stage ((decrypting at_).resolve_left (absurd stage))
  cases h
  case lenchk at_ => simp [passLeft, at_]
  case classify c at_ _ =>
    have := decryptLeft_le_five c
    simp only [passLeft, at_]
    omega
  case apctl at_ _ _ _ _ _ _ =>
    rw [passLeft_of_classified at_]
    change 5 + decryptLeft s.ctx < _
    omega
  case ivparse at_ _ _ _ => exact inside at_ rfl
  case keysel at_ _ _ => exact inside at_ rfl
  case cipherchk at_ _ _ => exact inside at_ rfl
  case decipher at_ _ _ _ _ => exact inside at_ rfl
  case strip at_ _ _ _ => exact six_le_passLeft at_
  case defrag at_ _ _ =>
    obtain at_ | at_ := at_
    · exact Nat.lt_of_lt_of_le (by simp [passLeft]) (six_le_passLeft at_)
    · simp [passLeft, at_]
  case rplchk at_ _ _ => obtain at_ | at_ := at_ <;> simp [passLeft, at_]
  case hdrxlt at_ _ _ _ _ =>
    refine Nat.lt_of_le_of_lt (passLeft_le_of_headerTranslated rfl) ?_
    obtain at_ | at_ | at_ | at_ := at_
    · exact Nat.lt_of_lt_of_le (by decide) (six_le_passLeft at_)
    all_goals simp [passLeft, at_]
  case route at_ _ first _ _ => simp [passLeft, at_, first]
  case cloneRefused at_ _ first => simp [passLeft, at_, first]
  case delivered => exact passLeft_pos active

/-! ### DECRYPT goes on (R120, R312) -/

/-- The registers that tell the position inside DECRYPT stay written (R24, R25). -/
structure DecryptKept (c c' : Ctx) : Prop where
  iv : c.iv.isSome = true → c'.iv.isSome = true
  key : c.key.isSome = true → c'.key.isSome = true
  suite : c.suite.isSome = true → c'.suite.isSome = true

theorem PassStep.decryptKept (h : PassStep s t) (going : t.stage.quiet = false) : DecryptKept s.ctx t.ctx := by
  cases h
  case classify hc =>
    obtain ⟨_, _, _, _, _, _, _, _, rfl, -⟩ := hc
    exact ⟨id, id, id⟩
  case ivparse => exact ⟨fun _ => rfl, id, id⟩
  case keysel => exact ⟨id, fun _ => rfl, id⟩
  case cipherchk => exact ⟨id, id, fun _ => rfl⟩
  case delivered => cases going
  case lenchk | apctl | decipher | strip | defrag | rplchk | hdrxlt | route | cloneRefused => exact ⟨id, id, id⟩

/-- The step leads to another stage or further inside DECRYPT, and leaves the host's schedule where it reassembles. -/
structure MovesOn (s t : State) : Prop where
  further : t.stage ≠ s.stage ∨ decryptLeft t.ctx < decryptLeft s.ctx
  port : t.stage = .defragmented → t.env.port = s.env.port

/-- An operation that is issued is run as its action. -/
theorem finish_of_issue {c : Code} {i : Instr} {m : Act Unit} (hi : issue s = .code c) (hd : decode c = .ok i)
    (hx : exec i s = finish m s) (h : pipeMove s = .next t) : finish m s = .next t := by
  rwa [pipeMove_of_issue hi hd, hx] at h

theorem stage_ne_of_filtered {x : Stage} (at_ : Filtered s) (stage : t.stage = x) (hx : x ≠ .classified)
    (hx' : x ≠ .apFiltered) : t.stage ≠ s.stage := by
  rw [stage]
  obtain ⟨h, -⟩ | h := at_ <;> rw [h] <;> assumption

section Filtered
variable (h : pipeMove s = .next t) (going : t.stage.quiet = false)
include h going

/-- DEC.suite leaves CTX.DECRYPTOK written, or drops the frame (R216). -/
theorem decryptOk_of_suite {su : Suite} (code : issue s = .code (.suite2 su.code)) :
    t.ctx.decryptOk.isSome = true ∧ t.env.port = s.env.port := by
  have done : ∀ {m : Act Unit}, m.Confined → (m.Leaves fun t => t.ctx.decryptOk.isSome = true) →
      finish m s = .next t → t.ctx.decryptOk.isSome = true ∧ t.env.port = s.env.port :=
    fun confined leaves run => ⟨leaves.of_going run going, port_of_confined confined run going⟩
  cases su with
  | noSuite => exact done (confined_raise rfl) opDecNone_leaves (finish_of_issue code rfl rfl h)
  | wep => exact done confined_opDecWep opDecWep_leaves (finish_of_issue code rfl rfl h)
  | tkip => exact done confined_opDecTkip opDecTkip_leaves (finish_of_issue code rfl rfl h)
  | ccmp => exact done confined_opDecCcmp opDecCcmp_leaves (finish_of_issue code rfl rfl h)

variable (at_ : Filtered s)
include at_

/-- Line 5: each operation of DECRYPT writes the register that the next one waits for. -/
theorem movesOn_of_protected (tag : s.ctx.tag = some .data) (wep : s.ctx.isWep = some true)
    (kept : DecryptKept s.ctx t.ctx) : MovesOn s t := by
  have issued : issue s = issueDecrypt s.ctx := by rw [issue_of_filtered at_, issueAfterFilter_of_protected tag wep]
  cases hiv : s.ctx.iv with
  | none =>
    have run : finish opIvparse s = .next t := finish_of_issue (issued.trans (issueDecrypt_ivparse hiv)) rfl rfl h
    have left : decryptLeft s.ctx = 5 := by simp only [decryptLeft, hiv]
    have := decryptLeft_le_of_iv (opIvparse_leaves.of_going run going)
    exact ⟨.inr (by omega), fun _ => port_of_confined confined_opIvparse run going⟩
  | some v =>
    have iv := kept.iv (by rw [hiv]; rfl)
    have hiv' : s.ctx.iv ≠ none := by simp [hiv]
    cases hkey : s.ctx.key with
    | none =>
      have run : finish opKeysel s = .next t := finish_of_issue (issued.trans (issueDecrypt_keysel hiv' hkey)) rfl rfl h
      have left : decryptLeft s.ctx = 4 := by simp only [decryptLeft, hiv, hkey]
      have := decryptLeft_le_of_key iv (opKeysel_leaves.of_going run going)
      exact ⟨.inr (by omega), fun _ => port_of_confined confined_opKeysel run going⟩
    | some k =>
      have key := kept.key (by rw [hkey]; rfl)
      have hkey' : s.ctx.key ≠ none := by simp [hkey]
      cases hsu : s.ctx.suite with
      | none =>
        have run : finish opCipherchk s = .next t :=
          finish_of_issue (issued.trans (issueDecrypt_cipherchk hiv' hkey' hsu)) rfl rfl h
        have left : decryptLeft s.ctx = 3 := by simp only [decryptLeft, hiv, hkey, hsu]
        have := decryptLeft_le_of_suite iv key (opCipherchk_leaves.of_going run going)
        exact ⟨.inr (by omega), fun _ => port_of_confined confined_opCipherchk run going⟩
      | some su =>
        cases hok : s.ctx.decryptOk with
        | none =>
          obtain ⟨ok, port⟩ := decryptOk_of_suite h going (issued.trans (issueDecrypt_suite hiv' hkey' hok hsu))
          have left : decryptLeft s.ctx = 2 := by simp only [decryptLeft, hiv, hkey, hsu, hok]
          have := decryptLeft_le_of_decryptOk iv key (kept.suite (by rw [hsu]; rfl)) ok
          exact ⟨.inr (by omega), fun _ => port⟩
        | some ok =>
          have run : finish opStrip s = .next t :=
            finish_of_issue (issued.trans (issueDecrypt_strip hiv' hkey' (by simp [hsu]) (by simp [hok]))) rfl rfl h
          have stage := opStrip_leaves.of_going run going
          exact ⟨.inl (stage_ne_of_filtered at_ stage nofun nofun), fun _ => port_of_confined confined_opStrip run going⟩

/-- Lines 4 to 8: another stage, or DECRYPT goes on. -/
theorem movesOn_of_filtered (facts : PassFacts s) (kept : DecryptKept s.ctx t.ctx) : MovesOn s t := by
  obtain ⟨tag, htag⟩ := Option.isSome_iff_exists.1 facts.tag
  have issued := issue_of_filtered at_
  have dispatched : issueAfterFilter s.ctx = .code (.seq .mgmtDispatch) → MovesOn s t := fun code => by
    have stage := opMgmtDispatch_leaves.of_going (finish_of_issue (issued.trans code) rfl rfl h) going
    simp [stage, Stage.quiet] at going
  cases tag with
  | mgmt => exact dispatched (issueAfterFilter_of_not_data (.inl htag))
  | ctrl => exact dispatched (issueAfterFilter_of_not_data (.inr htag))
  | data =>
    obtain ⟨wep, hwep⟩ := Option.isSome_iff_exists.1 facts.isWep
    cases wep with
    | true => exact movesOn_of_protected h going at_ htag hwep kept
    | false =>
      rw [issueAfterFilter_of_plain htag hwep] at issued
      obtain ⟨frag, hfrag⟩ := Option.isSome_iff_exists.1 facts.isFrag
      cases frag with
      | true =>
        rw [issueDefrag_of_fragment hfrag] at issued
        have run : finish opDefrag s = .next t := finish_of_issue issued rfl rfl h
        obtain ⟨stage, port⟩ := defrag_of_going run going
        exact ⟨.inl (stage_ne_of_filtered at_ stage nofun nofun), fun _ => port⟩
      | false =>
        rw [issueDefrag_of_whole hfrag, issueTranslate_of_data htag] at issued
        have stage := opHdrxlt_leaves.of_going (finish_of_issue issued rfl rfl h) going
        exact ⟨.inl (stage_ne_of_filtered at_ stage nofun nofun), fun e => nomatch stage.symm.trans e⟩

end Filtered

/-- After DECRYPT only line 6, DEFRAG's, leads to `Defragmented`, and it leaves the host's schedule. -/
theorem port_of_decrypted (at_ : s.stage = .decrypted) (h : pipeMove s = .next t) (facts : PassFacts s)
    (defragged : t.stage = .defragmented) : t.env.port = s.env.port := by
  have going : t.stage.quiet = false := by rw [defragged]; rfl
  have tag : s.ctx.tag = some .data := facts.dataTag (by simp [at_]) (by simp [at_])
  obtain ⟨frag, hfrag⟩ := Option.isSome_iff_exists.1 facts.isFrag
  cases frag with
  | true =>
    have issued : issue s = .code (.seq .defrag) := by
      simp [issue, at_, issueDecrypted, tag, issueDefrag_of_fragment hfrag]
    exact (defrag_of_going (finish_of_issue issued rfl rfl h) going).2
  | false =>
    have issued := issue_of_replay_line (.inl ⟨at_, hfrag⟩) tag
    unfold issueReplay at issued
    split at issued
    · simp [pipeMove, issued] at h
    · have stage := opRplchk_leaves.of_going (finish_of_issue issued rfl rfl h) going
      exact nomatch stage.symm.trans defragged
    · rw [issueTranslate_of_data tag] at issued
      have stage := opHdrxlt_leaves.of_going (finish_of_issue issued rfl rfl h) going
      exact nomatch stage.symm.trans defragged

/-! ### A pass comes to its end (R311, R314, R435) -/

/-- A move of the pipeline during a pass lowers the measure, and leaves the host's schedule until the pass has ended. -/
theorem pipeMove_progress (i : Inv s) (active : s.stage.quiet = false) (h : pipeMove s = .next t) :
    passLeft t < passLeft s ∧ (t.stage.quiet = false → t.env.port = s.env.port) := by
  cases going : t.stage.quiet with
  | true =>
    rw [passLeft_of_quiet going]
    exact ⟨passLeft_pos active, nofun⟩
  | false =>
    have pass : PassStep s t := by
      obtain ⟨quiet, -⟩ | pass | ⟨r, u, -, rfl⟩ := pipeMove_next h
      · rw [quiet] at active
        cases active
      · exact pass
      · cases going
    have filtered : Filtered s → MovesOn s t := fun at_ =>
      movesOn_of_filtered h going at_ (passFacts_of_inv i (working_of_filtered at_)) (pass.decryptKept going)
    refine ⟨pass.passLeft_lt active fun at_ => (filtered at_).further, fun _ => ?_⟩
    obtain env | ⟨at_ | at_, defragged⟩ := pass.env
    · rw [env]
    · exact (filtered at_).port defragged
    · exact port_of_decrypted at_ h (passFacts_of_inv i (working_of_replay (.inl at_))) defragged

theorem run_succ_of_step {n : Nat} {u : State} (h : step s = .next u) :
    Host.Core.run Sys2Proof.core (n + 1) s = Host.Core.run Sys2Proof.core n u := by
  simp only [Host.Core.run, Sys2Proof.core, h]

/-- With no host move due, a pass runs to its end in as many steps as the measure says. -/
theorem exists_run_quiet (k : Nat) :
    ∀ {s : State}, passLeft s ≤ k → Inv s → (s.stage.quiet = false → s.env.port = []) →
      ∃ n t, n ≤ k ∧ Host.Core.run Sys2Proof.core n s = .next t ∧ Inv t ∧ t.stage.quiet = true := by
  induction k with
  | zero =>
    intro s left i _
    refine ⟨0, s, le_rfl, rfl, i, ?_⟩
    by_contra active
    have := passLeft_pos (Bool.eq_false_iff.2 active)
    omega
  | succ k ih =>
    intro s left i port
    cases active : s.stage.quiet with
    | true => exact ⟨0, s, Nat.zero_le _, rfl, i, active⟩
    | false =>
      obtain ⟨u, move⟩ := pipeMove_not_stuck i
      obtain ⟨lower, kept⟩ := pipeMove_progress i active move
      obtain ⟨n, t, bound, run, end_⟩ := ih (by omega) (pipeMove_inv i move) fun going => (kept going).trans (port active)
      refine ⟨n + 1, t, by omega, ?_, end_⟩
      rw [run_succ_of_step ((step_of_port_nil (port active)).trans move), run]

end Sys2Proof.Machine

namespace Sys2Proof.Proofs
open Sys2Proof.Machine

/-- Settles O50: the frame leaves as it stands in the frame space. -/
theorem mgmtDispatch : Obligations.MgmtDispatch :=
  ⟨rfl, fun _ _ => exec_mgmtDispatch⟩

/-- Settles O51: the route of the mode, then the frame where ROUTE has not moved it. -/
theorem deliver : Obligations.Deliver := by
  refine ⟨fun s f ap hf => ?_, fun s r b ap hr hb => ⟨?_, fun unqueued f hf => ?_⟩⟩
  · exact exec_deliver (stationRoute_of_station ap) rfl rfl (outgoing_of_unqueued nofun hf)
  · rintro i rfl
    exact exec_deliver (stationRoute_of_apMode ap) hr hb rfl
  · exact exec_deliver (stationRoute_of_apMode ap) hr hb (outgoing_of_unqueued unqueued hf)

/-- Settles O12: every move lowers the measure, which is at most 13, and between passes LOCK is free. -/
theorem passRunsToCompletion : Obligations.PassRunsToCompletion := by
  intro s i port
  obtain ⟨n, t, bound, run, inv, quiet⟩ := exists_run_quiet (passLeft s) le_rfl i fun _ => port
  obtain ⟨free, -⟩ := (inv_quiet_iff quiet).1 inv
  exact ⟨n, t, bound, bound.trans (passLeft_le s), run, quiet, free⟩

end Sys2Proof.Proofs
end

section
/-! PROOFS. The host interface: the key store, the station table and the counters as the host writes and reads them (R344, R346,
R347, R348, R350, R351, R352). -/
namespace Sys2Proof.Machine

variable {s : State}

/-! ### H.KEY_SET (R344) -/

section Operands
variable {sc su ki lo hi : Nat} {a : Addr} {m : List Byte}

/-- Operands that give a record are each in its range. -/
theorem inRange_of_keyOfOperands {k : KeyRec} (h : keyOfOperands sc a ki su m lo hi = some k) :
    sc < 2 ∧ ki < 4 ∧ su < 4 ∧ 1 ≤ m.length ∧ m.length ≤ 32 ∧ lo < 2 ^ 16 ∧ hi < 2 ^ 32 := by
  unfold keyOfOperands at h
  split at h
  · next hsc hsu =>
    have scope : sc < 2 := by
      by_contra hn
      rw [scopeOfNat_none (by omega)] at hsc
      cases hsc
    have suite : su < 4 := by
      by_contra hn
      rw [suiteOfNat_none (by omega)] at hsu
      cases hsu
    split at h
    · next ok =>
      simp only [keyOperandsOk, Bool.and_eq_true, decide_eq_true_eq] at ok
      obtain ⟨⟨⟨⟨index, low⟩, high⟩, tscLo⟩, tscHi⟩ := ok
      exact ⟨scope, index, suite, low, high, tscLo, tscHi⟩
    · cases h
  · cases h

/-- Operands in range give the record they spell. -/
theorem keyOfOperands_of_inRange {scope : Scope} {suite : Suite} (hsc : scopeOfNat sc = some scope)
    (hsu : suiteOfNat su = some suite) (index : ki < 4) (low : 1 ≤ m.length) (high : m.length ≤ 32) (tscLo : lo < 2 ^ 16)
    (tscHi : hi < 2 ^ 32) :
    keyOfOperands sc a ki su m lo hi
      = some (keyRecord scope a (BitVec.ofNat 2 ki) suite m (BitVec.ofNat 16 lo) (BitVec.ofNat 32 hi)) := by
  have ok : keyOperandsOk ki m lo hi = true := by
    simp only [keyOperandsOk, Bool.and_eq_true, decide_eq_true_eq]
    exact ⟨⟨⟨⟨index, low⟩, high⟩, tscLo⟩, tscHi⟩
  simp only [keyOfOperands, hsc, hsu, ok, if_true]

theorem exec_hKeySet_of_slot {k : KeyRec} {h : Nat} (free : s.lock = false) (hk : keyOfOperands sc a ki su m lo hi = some k)
    (hh : keySlot s.ks k.scope k.addr k.kidx = some h) :
    exec (.hKeySet sc a ki su m lo hi) s = .next (({ s with ks := s.ks.set h k } : State).withReply .done) := by
  simp [exec, execHKeySet, hostOp_free free, hostKeySet, hk, keyStored, hh]

theorem exec_hKeySet_of_no_slot {k : KeyRec} (free : s.lock = false) (hk : keyOfOperands sc a ki su m lo hi = some k)
    (hh : keySlot s.ks k.scope k.addr k.kidx = none) :
    exec (.hKeySet sc a ki su m lo hi) s = .next (s.withReply .refused) := by
  simp [exec, execHKeySet, hostOp_free free, hostKeySet, hk, keyStored, hh]

theorem exec_hKeySet_of_no_record (free : s.lock = false) (hk : keyOfOperands sc a ki su m lo hi = none) :
    exec (.hKeySet sc a ki su m lo hi) s = .next (s.withReply .refused) := by
  simp [exec, execHKeySet, hostOp_free free, hostKeySet, hk]

end Operands

section Slot
variable {ks : List KeyRec} {scope : Scope} {a : Addr} {i : BitVec 2} {h : Nat}

theorem keySlot_of_match (hl : ksLookup ks scope a i = some h) : keySlot ks scope a i = some h := by
  simp only [keySlot, hl]

/-- With no match, a store that has an invalid record gives one of them as the place (log 11). -/
theorem keySlot_of_invalid (hl : ksLookup ks scope a i = none) (hx : ∃ x ∈ ks, x.valid = false) :
    ∃ h x, ks[h]? = some x ∧ x.valid = false ∧ keySlot ks scope a i = some h := by
  have slot : keySlot ks scope a i = ks.findIdx? fun k => !k.valid := by simp only [keySlot, hl]
  obtain ⟨x, hm, hv⟩ := hx
  have found : (ks.findIdx? fun k => !k.valid).isSome = true := by
    rw [List.findIdx?_isSome, List.any_eq_true]
    exact ⟨x, hm, by simp [hv]⟩
  obtain ⟨h, hf⟩ := Option.isSome_iff_exists.1 found
  obtain ⟨hlt, invalid, -⟩ := List.findIdx?_eq_some_iff_getElem.1 hf
  exact ⟨h, ks[h], List.getElem?_eq_getElem hlt, by simpa using invalid, slot.trans hf⟩

/-- With no match and every record valid there is no place. -/
theorem keySlot_of_full (hl : ksLookup ks scope a i = none) (full : ∀ x ∈ ks, x.valid = true) : keySlot ks scope a i = none := by
  simp only [keySlot, hl, List.findIdx?_eq_none_iff]
  exact fun x hx => by simp [full x hx]

/-- A record written where nothing answered is the one that the lookup finds. -/
theorem ksLookup_set_of_none {k x : KeyRec} (hl : ksLookup ks scope a i = none) (hx : ks[h]? = some x)
    (hk : k.answers scope a i = true) : ksLookup (ks.set h k) scope a i = some h := by
  refine ksLookup_of (List.getElem?_set_self (List.getElem?_eq_some_iff.1 hx).1) hk fun j y hj hy => ?_
  rw [List.getElem?_set_ne (by omega)] at hy
  exact ksLookup_none.1 hl y (List.mem_of_getElem? hy)

end Slot

/-! ### H.STA_SET (R347) -/

theorem assocOfNat_code (x : Assoc) : assocOfNat x.code.toNat = some x := by cases x <;> rfl

theorem assocOfNat_none {v : Nat} (h : 3 ≤ v) : assocOfNat v = none := by
  unfold assocOfNat
  split
  case h_4 => rfl
  all_goals omega

/-- What it is for an address to be taken by another entry. -/
theorem addrTaken_iff {st : List StaEntry} {i : Nat} {a : Addr} :
    addrTaken st i a = true ↔ ∃ j e, j ≠ i ∧ st[j]? = some e ∧ e.valid = true ∧ e.addr = a := by
  constructor
  · intro h
    obtain ⟨⟨e, j⟩, hm, he⟩ := List.any_eq_true.1 h
    simp only [Bool.and_eq_true, beq_iff_eq, bne_iff_ne] at he
    obtain ⟨⟨hv, ha⟩, hj⟩ := he
    exact ⟨j, e, hj, List.mem_zipIdx_iff_getElem?.1 hm, hv, ha⟩
  · rintro ⟨j, e, hj, he, hv, ha⟩
    by_contra hn
    exact addrTaken_false (Bool.eq_false_iff.2 hn) hj he ⟨hv, ha⟩

section Entry
variable {e : StaEntry} {a : Addr} {x : Assoc}

theorem staWritten_of_known (hv : e.valid = true) (ha : e.addr = a) : staWritten e a x = some { e with assoc := x } := by
  simp [staWritten, hv, ha]

theorem not_valid_and_addr (h : e.valid = false ∨ e.addr ≠ a) : ¬ (e.valid && e.addr == a) = true := by
  obtain h | h := h <;> simp [h]

theorem staWritten_of_new (h : e.valid = false ∨ e.addr ≠ a) (hq : e.q = []) :
    staWritten e a x = some { valid := true, addr := a, assoc := x, ps := false, ready := false, q := [] } := by
  simp only [staWritten, if_neg (not_valid_and_addr h), if_pos hq]

theorem staWritten_of_queued (h : e.valid = false ∨ e.addr ≠ a) (hq : e.q ≠ []) : staWritten e a x = none := by
  simp only [staWritten, if_neg (not_valid_and_addr h), if_neg hq]

end Entry

section Record
variable {i v : Nat} {a : Addr}

/-- The preconditions of H.STA_SET hold where it writes the table. -/
theorem allowed_of_staRecorded {st st' : List StaEntry} (h : staRecorded st i a v = some st') :
    1 ≤ i ∧ i < st.length ∧ v < 3 ∧ a.b0.getLsbD 0 = false ∧ addrTaken st i a = false := by
  unfold staRecorded at h
  split at h
  · next e x he hx =>
    have state : v < 3 := by
      by_contra hn
      rw [assocOfNat_none (by omega)] at hx
      cases hx
    split at h
    · next pre =>
      simp only [Bool.and_eq_true, decide_eq_true_eq, Bool.not_eq_true'] at pre
      obtain ⟨⟨station, untaken⟩, single⟩ := pre
      exact ⟨station, (List.getElem?_eq_some_iff.1 he).1, state, single, untaken⟩
    · cases h
  · cases h

/-- Where they hold, the entry alone decides. -/
theorem staRecorded_of_allowed {st : List StaEntry} {e : StaEntry} {x : Assoc} (hi : 1 ≤ i) (he : st[i]? = some e)
    (hv : assocOfNat v = some x) (single : a.b0.getLsbD 0 = false) (untaken : addrTaken st i a = false) :
    staRecorded st i a v = (staWritten e a x).map fun e' => st.set i e' := by
  have pre : (decide (1 ≤ i) && !addrTaken st i a && !groupAddressed a) = true := by
    simp only [Bool.and_eq_true, decide_eq_true_eq, Bool.not_eq_true']
    exact ⟨⟨hi, untaken⟩, single⟩
  simp only [staRecorded, he, hv, if_pos pre]

theorem exec_hStaSet_of_some {st : List StaEntry} (free : s.lock = false) (h : staRecorded s.st i a v = some st) :
    exec (.hStaSet i a v) s = .next (({ s with st := st } : State).withReply .done) := by
  simp [exec, execHStaSet, hostOp_free free, hostStaSet, h]

theorem exec_hStaSet_of_none (free : s.lock = false) (h : staRecorded s.st i a v = none) :
    exec (.hStaSet i a v) s = .next (s.withReply .refused) := by
  simp [exec, execHStaSet, hostOp_free free, hostStaSet, h]

end Record

/-! ### H.STA_DEL and H.PS_POP (R348, R350) -/

section Queue
variable {i : Nat} {e : StaEntry}

theorem exec_hStaDel_zero (free : s.lock = false) : exec (.hStaDel 0) s = .next (s.withReply .refused) := by
  simp only [exec, execHStaDel, hostOp_free free, hostStaDel]
  cases s.st[0]? <;> rfl

theorem exec_hStaDel_of_none (free : s.lock = false) (he : s.st[i]? = none) :
    exec (.hStaDel i) s = .next (s.withReply .refused) := by
  simp only [exec, execHStaDel, hostOp_free free, hostStaDel, he]

theorem exec_hStaDel_of_some (free : s.lock = false) (he : s.st[i]? = some e) (hi : 1 ≤ i) :
    exec (.hStaDel i) s = .next (({ s with st := s.st.set i (staDeleted e) } : State).withReply (.frames e.q)) := by
  simp only [exec, execHStaDel, hostOp_free free, hostStaDel, he, if_pos hi]

theorem exec_hPsPop_of_none (free : s.lock = false) (he : s.st[i]? = none) :
    exec (.hPsPop i) s = .next (s.withReply .refused) := by
  simp only [exec, execHPsPop, hostOp_free free, hostPsPop, he]

theorem exec_hPsPop_of_invalid (free : s.lock = false) (he : s.st[i]? = some e) (hv : e.valid = false) :
    exec (.hPsPop i) s = .next (s.withReply .refused) := by
  simp [exec, execHPsPop, hostOp_free free, hostPsPop, he, hv]

theorem exec_hPsPop_of_valid (free : s.lock = false) (he : s.st[i]? = some e) (hv : e.valid = true) :
    exec (.hPsPop i) s
      = .next (({ s with st := s.st.set i { e with ready := false, q := e.q.drop 1 } } : State).withReply (.frame e.q.head?)) := by
  simp only [exec, execHPsPop, hostOp_free free, hostPsPop, he, if_pos hv]

end Queue

/-! ### H.STA0_PS_CLEAR, H.STAT_READ and the reading of a key record (R346, R351, R352) -/

theorem exec_hSta0PsClear {e : StaEntry} {rest : List StaEntry} (free : s.lock = false) (h : s.st = e :: rest) :
    exec .hSta0PsClear s = .next (({ s with st := { e with ps := false } :: rest } : State).withReply .done) := by
  simp only [exec, execHSta0PsClear, hostOp_free free, hostSta0PsClear, h, List.modify_zero_cons]

/-- The counters in the order of R32: a counter's number is its place (log 3). -/
def portCounters : List Counter :=
  [.malformed, .class2, .class3, .wepUndecryptable, .cipherMismatch, .wepDecryptErr, .tkipDecryptErr, .tkipMicErr, .ccmpDecryptErr,
    .tkipReplay, .ccmpReplay, .psqOverflow, .overrun, .duplicate]

theorem counterOfNat_eq_getElem? (n : Nat) : counterOfNat n = portCounters[n]? := by
  match n with
  | 0 | 1 | 2 | 3 | 4 | 5 | 6 | 7 | 8 | 9 | 10 | 11 | 12 | 13 => rfl
  | _ + 14 => rfl

theorem exec_hStatRead_of_some {n : Nat} {c : Counter} (free : s.lock = false) (h : portCounters[n]? = some c) :
    exec (.hStatRead n) s = .next (s.withReply (.value (s.stat.get c))) := by
  simp only [exec, execHStatRead, hostOp_free free, hostStatRead, counterOfNat_eq_getElem?, h]

theorem exec_hStatRead_of_none {n : Nat} (free : s.lock = false) (h : portCounters[n]? = none) :
    exec (.hStatRead n) s = .next (s.withReply .refused) := by
  simp only [exec, execHStatRead, hostOp_free free, hostStatRead, counterOfNat_eq_getElem?, h]

/-- Between passes the step that serves a reading answers what the handle names, and touches nothing else. -/
theorem step_of_readKey_free {h : Nat} {rest : List HostMove} (free : s.lock = false) (port : s.env.port = .readKey h :: rest) :
    step s = .next { s with env := { s.env with
      port := rest, reply := some ((s.ks[h]?).elim .refused fun k => .key k.readable) } } := by
  rw [step_of_readKey port, keyReadMove_eq]
  simp only [free]
  rfl

end Sys2Proof.Machine

namespace Sys2Proof.Proofs
open Sys2Proof.Machine

/-- Settles O55: the operands give a record or none, and the lookup and VALID decide where the record goes. -/
theorem keySet : Obligations.KeySet := by
  intro s sc su a ki m lo hi free
  refine ⟨fun out => ?_, fun scope suite k hsc hsu index low high tscLo tscHi hk => ?_⟩
  · refine exec_hKeySet_of_no_record free (Option.eq_none_iff_forall_ne_some.2 fun k hk => ?_)
    exact out (inRange_of_keyOfOperands hk)
  · have hscope : scopeOfNat sc = some scope := by
      subst hsc
      cases scope <;> rfl
    have hsuite : suiteOfNat su = some suite := by rw [hsu, suiteOfNat_code]
    have record : keyOfOperands sc a ki su m lo hi = some k := by
      rw [hk]
      exact keyOfOperands_of_inRange hscope hsuite index low high tscLo tscHi
    have answers : k.answers scope a (BitVec.ofNat 2 ki) = true := by
      rw [hk, answers_iff]
      exact ⟨rfl, rfl, rfl, fun _ => rfl⟩
    have slot : keySlot s.ks k.scope k.addr k.kidx = keySlot s.ks scope a (BitVec.ofNat 2 ki) := by rw [hk]
    refine ⟨fun h hl => ?_, fun hl hx => ?_, fun hl full => ?_⟩
    · exact exec_hKeySet_of_slot free record (slot.trans (keySlot_of_match hl))
    · obtain ⟨h, x, at_, invalid, place⟩ := keySlot_of_invalid hl hx
      exact ⟨h, x, at_, invalid, exec_hKeySet_of_slot free record (slot.trans place), ksLookup_set_of_none hl at_ answers⟩
    · exact exec_hKeySet_of_no_slot free record (slot.trans (keySlot_of_full hl full))

/-- Settles O57: where the preconditions hold, the entry's own address and queue decide between the three outcomes. -/
theorem staSet : Obligations.StaSet := by
  intro s i a v free taken
  refine ⟨fun refused => ?_, fun e x hi he hv single untaken => ?_⟩
  · refine exec_hStaSet_of_none free (Option.eq_none_iff_forall_ne_some.2 fun st hst => refused ?_)
    obtain ⟨station, entry, state, single, untaken⟩ := allowed_of_staRecorded hst
    exact ⟨station, entry, state, single, fun h => Bool.eq_false_iff.1 untaken (addrTaken_iff.2 h)⟩
  · have untaken' : addrTaken s.st i a = false := Bool.eq_false_iff.2 fun h => untaken (addrTaken_iff.1 h)
    have recorded : staRecorded s.st i a v = (staWritten e a x).map fun e' => s.st.set i e' :=
      staRecorded_of_allowed hi he (by rw [hv, assocOfNat_code]) single untaken'
    refine ⟨fun known addr => ?_, fun new empty => ?_, fun new queued => ?_⟩
    · exact exec_hStaSet_of_some free (by rw [recorded, staWritten_of_known known addr]; rfl)
    · exact exec_hStaSet_of_some free (by rw [recorded, staWritten_of_new new empty]; rfl)
    · exact exec_hStaSet_of_none free (by rw [recorded, staWritten_of_queued new queued]; rfl)

/-- Settles O58: both operations turn on the entry, and H.PS_POP on what stands in its queue. -/
theorem staDelPsPop : Obligations.StaDelPsPop := by
  intro s i free
  refine ⟨exec_hStaDel_zero free, fun beyond => ?_, fun e he => ⟨fun hi => exec_hStaDel_of_some free he hi,
    fun invalid => exec_hPsPop_of_invalid free he invalid, fun valid empty => ?_, fun p rest valid queue => ?_⟩⟩
  · have none_ : s.st[i]? = none := List.getElem?_eq_none beyond
    exact ⟨exec_hStaDel_of_none free none_, exec_hPsPop_of_none free none_⟩
  · rw [exec_hPsPop_of_valid free he valid]
    simp [empty]
  · rw [exec_hPsPop_of_valid free he valid]
    simp [queue]

/-- Settles O59: a number or handle names one counter or record, and VALID decides what a reading tells. -/
theorem sta0ClearStatRead : Obligations.Sta0ClearStatRead := by
  intro s free
  refine ⟨fun e0 rest hst => exec_hSta0PsClear free hst, fun n c hc => exec_hStatRead_of_some free hc,
    fun n hn => exec_hStatRead_of_none free (List.getElem?_eq_none hn), fun h rest port => ?_⟩
  refine ⟨fun k hk valid => ?_, fun k hk invalid => ?_, fun beyond => ?_⟩
  · rw [step_of_readKey_free free port, hk, Option.elim_some, KeyRec.readable_valid valid]
  · rw [step_of_readKey_free free port, hk, Option.elim_some, KeyRec.readable_invalid invalid]
  · rw [step_of_readKey_free free port, List.getElem?_eq_none beyond, Option.elim_none]

end Sys2Proof.Proofs
end

section
/-! PROOFS. The drop path: the DROP operation, the rows of R371's table, and what an increment does to every counter (R33, R326,
R371, R385). -/
namespace Sys2Proof.Machine

variable {s : State}

/-! ### An increment (R32, R33) -/

/-- The statistics block in which every counter holds the value that `f` gives it. -/
def Stats.ofGet (f : Counter → BitVec Config.ctrWidth) : Stats where
  malformed := f .malformed
  class2 := f .class2
  class3 := f .class3
  wepUndecryptable := f .wepUndecryptable
  cipherMismatch := f .cipherMismatch
  wepDecryptErr := f .wepDecryptErr
  tkipDecryptErr := f .tkipDecryptErr
  tkipMicErr := f .tkipMicErr
  ccmpDecryptErr := f .ccmpDecryptErr
  tkipReplay := f .tkipReplay
  ccmpReplay := f .ccmpReplay
  psqOverflow := f .psqOverflow
  overrun := f .overrun
  duplicate := f .duplicate

@[simp] theorem Stats.get_ofGet (f : Counter → BitVec Config.ctrWidth) (c : Counter) : (Stats.ofGet f).get c = f c := by
  cases c <;> rfl

/-- An increment updates the counters' values at one counter; this is the one place that walks through the fields. -/
theorem Stats.bump_eq_ofGet (v : Stats) (c : Counter) :
    v.bump c = Stats.ofGet (Function.update v.get c (v.get c + 1)) := by
  cases c <;> rfl

theorem Stats.get_bump (v : Stats) (c c' : Counter) :
    (v.bump c).get c' = if c' = c then v.get c + 1 else v.get c' := by
  rw [Stats.bump_eq_ofGet, Stats.get_ofGet, Function.update_apply]

/-! ### DROP and its table (R326, R371, R385) -/

theorem exec_drop (r : Reason) : exec (.drop r) s = .next (dropPath r s) := finish_of_raise (raise_apply r s)

/-- The reasons in the order of their codes (R371). -/
def reasons : List Reason :=
  [.malformedLength, .malformedReservedType, .malformedTruncated, .malformedMcastFragment, .cipherMismatch, .integrityWep,
    .integrityTkip, .integrityTkipMic, .integrityCcmp, .replayTkip, .replayCcmp, .reassemblyIncomplete, .class2, .class3, .noKey,
    .noKeySuiteNone, .noKeyIvFormat, .queueOverflow]

/-- R371's table as the model has it: each reason with its code and its counter. -/
def reasonTable : List (Reason × BitVec 5 × Option Counter) := reasons.map fun r => (r, reasonCode r, reasonCounter r)

theorem eq_of_mem_reasonTable {x : Reason × BitVec 5 × Option Counter} (h : x ∈ reasonTable) :
    ∃ r, x = (r, reasonCode r, reasonCounter r) := by
  obtain ⟨r, -, rfl⟩ := List.mem_map.1 h
  exact ⟨r, rfl⟩

end Sys2Proof.Machine

namespace Sys2Proof.Proofs
open Sys2Proof.Machine

/-- Settles O52: the statement's rows are the model's table, and the drop path asks of a reason only its code and its counter. -/
theorem dropPath : Obligations.DropPath := by
  refine ⟨fun x row s => ?_, Stats.get_bump⟩
  obtain ⟨r, rfl⟩ := eq_of_mem_reasonTable row
  exact ⟨exec_drop r, exec_drop r⟩

end Sys2Proof.Proofs
end
